-- ==== Sys2Proof/Word.lean ====
section
/-! DEFINITION. The widths the spec gives its values: bytes and 16-bit fields (rule R10), Word9 (R11, R70) and the 5-bit bus
address (R50, R72). The helpers that cut them up and join them stand in Sys2Proof/Decode.lean. -/

namespace Sys2Proof

/-- A byte (rule R10). -/
abbrev Byte := BitVec 8

/-- One transported unit: bit 8 is the mode flag, bits 7..0 the data byte (rules R11, R70). -/
abbrev Word9 := BitVec 9

/-- A 16-bit wire integer (rules R10, R57). -/
abbrev U16 := BitVec 16

/-- A bus address, the top five bits of an address byte (rules R50, R72). -/
abbrev Addr5 := BitVec 5

end Sys2Proof
end

