-- ==== Sys2Proof/Config.lean ====
section
/-! DEFINITION. The implementation parameters of 00_scope.md rule R8. A block holds them from construction on and nothing
writes them (rule R40), so they are one field of State; statements over every state hold for every choice of them. -/

namespace Sys2Proof

/-- `ROLE` (rules R3, R8): which agents exist and who initiates transactions. -/
inductive Role where
  | master
  | peripheral
deriving DecidableEq, Repr

/-- `LINK_IMPL` (rules R8, R103 to R108): no effect at word level. -/
inductive LinkImpl where
  | bitbang
  | parityUart
deriving DecidableEq, Repr

/-- `VMC_CONFIG`: the four payload bytes of the master's CONFIG_DATA (rules R8, R82). -/
structure VmcConfig where
  featureLevel : Byte
  displayColumns : Byte
  displayRows : Byte
  displayInfo : Byte
deriving DecidableEq, Repr

/-- Every parameter of rule R8, in the rule's order. The durations `baud`, `idleWindow`, `vendWindow` are read by no rule of
the untimed model (R15); `tRespDefault` is read only as the stored value of an unlearned `responseTimeout` (R36). -/
structure Config where
  role : Role
  ownAddrs : List Addr5
  addrs : List Addr5
  baud : Nat
  idleWindow : Nat
  vendWindow : Nat
  maxPollMisses : Nat
  autoApprove : Bool
  oosToInactive : Bool
  capFeatureLevel : Byte
  capCountry : U16
  capScale : Byte
  capDecimals : Byte
  capMaxResp : Byte
  capOptions : Byte
  idMfr : List Byte
  idSerial : List Byte
  idModel : List Byte
  idSwver : List Byte
  vmcConfig : VmcConfig
  vmcMaxPrice : U16
  vmcMinPrice : U16
  vmcId : List Byte
  tRespDefault : Byte
  maxRspLen : Nat
  linkImpl : LinkImpl
deriving DecidableEq, Repr

/-- The parameters of the block `State.reset` constructs. Where rule R8 gives a default it is taken. For the parameters R8
leaves as arguments the values are DESIGN CHOICES (notes/assumptions/1.md): the PERIPHERAL role, `AUTO_APPROVE = true` as
Scenario D uses it, and the identification strings of 95_test_vectors.md section 0. -/
def Config.standard : Config where
  role := .peripheral
  ownAddrs := [0x02]
  addrs := [0x02]
  baud := 9600
  idleWindow := 45
  vendWindow := 90
  maxPollMisses := 3
  autoApprove := true
  oosToInactive := false
  capFeatureLevel := 0x01
  capCountry := 0x0000
  capScale := 0x01
  capDecimals := 0x02
  capMaxResp := 0x05
  capOptions := 0x00
  idMfr := [0x58, 0x59, 0x5A]
  idSerial := [0x30, 0x30, 0x30, 0x30, 0x30, 0x30, 0x30, 0x30, 0x30, 0x30, 0x30, 0x31]
  idModel := [0x43, 0x41, 0x53, 0x48, 0x4C, 0x45, 0x53, 0x53, 0x20, 0x20, 0x20, 0x20]
  idSwver := [0x01, 0x00]
  vmcConfig := ⟨0x01, 0x00, 0x00, 0x00⟩
  vmcMaxPrice := 0xFFFF
  vmcMinPrice := 0x0000
  vmcId := [0x56, 0x4D, 0x43] ++
    [0x30, 0x30, 0x30, 0x30, 0x30, 0x30, 0x30, 0x30, 0x30, 0x30, 0x30, 0x32] ++
    [0x4D, 0x41, 0x53, 0x54, 0x45, 0x52, 0x20, 0x20, 0x20, 0x20, 0x20, 0x20] ++ [0x00, 0x01]
  tRespDefault := 5
  maxRspLen := 36
  linkImpl := .bitbang

end Sys2Proof
end

