-- ==== Sys2Proof/Syntax.lean ====
section
/-! DEFINITION. The instructions: the fourteen MDB request kinds (rules R16, R81), one constructor per row of
spec/opcode_table.json, with the operands of rule R82. The bus address is no operand of the command: LINE reads it from
the address byte and hands it over beside the frame (rules R30, R126, R210), so it stands in `State.rxSlot`. -/

namespace Sys2Proof

/-- A request: its kind and its payload fields (rules R81, R82). -/
inductive Instr where
  | reset
  | configData (vmcFeatureLevel displayColumns displayRows displayInfo : Byte)
  | maxMinPrices (maxPrice minPrice : U16)
  | poll
  | vendRequest (itemPrice itemNumber : U16)
  | vendCancel
  | vendSuccess (itemNumber : U16)
  | vendFailure
  | sessionComplete
  | cashSale (itemPrice itemNumber : U16)
  | readerDisable
  | readerEnable
  | readerCancel
  | requestId (manufacturerCode serialNumber modelNumber softwareVersion : List Byte)
deriving DecidableEq, Repr

/-- The fourteen kinds a decoder can return (rule R81). -/
inductive Kind where
  | reset
  | configData
  | maxMinPrices
  | poll
  | vendRequest
  | vendCancel
  | vendSuccess
  | vendFailure
  | sessionComplete
  | cashSale
  | readerDisable
  | readerEnable
  | readerCancel
  | requestId
deriving DecidableEq, Repr

/-- The six commands of rule R77; codes 5 and 6 name none. -/
inductive Command where
  | reset
  | setup
  | poll
  | vend
  | reader
  | expansion
deriving DecidableEq, Repr

/-- The kind of a request. -/
def Instr.kind : Instr → Kind
  | .reset => .reset
  | .configData _ _ _ _ => .configData
  | .maxMinPrices _ _ => .maxMinPrices
  | .poll => .poll
  | .vendRequest _ _ => .vendRequest
  | .vendCancel => .vendCancel
  | .vendSuccess _ => .vendSuccess
  | .vendFailure => .vendFailure
  | .sessionComplete => .sessionComplete
  | .cashSale _ _ => .cashSale
  | .readerDisable => .readerDisable
  | .readerEnable => .readerEnable
  | .readerCancel => .readerCancel
  | .requestId _ _ _ _ => .requestId

end Sys2Proof
end

