-- ==== Sys2Proof/WellFormed.lean ====
section
/-! DEFINITION. Which requests have an encoding: the text fields of REQUEST_ID have the widths of rule R82 (3, 12, 12 and 2
bytes). Every other operand is a bit vector of its encoded width, so every other request is well-formed. -/

namespace Sys2Proof

/-- The checks of rule R82's layout that the operand types do not already make. -/
def Instr.wellFormed : Instr → Bool
  | .reset => true
  | .configData _ _ _ _ => true
  | .maxMinPrices _ _ => true
  | .poll => true
  | .vendRequest _ _ => true
  | .vendCancel => true
  | .vendSuccess _ => true
  | .vendFailure => true
  | .sessionComplete => true
  | .cashSale _ _ => true
  | .readerDisable => true
  | .readerEnable => true
  | .readerCancel => true
  | .requestId mfr serial model sw =>
    mfr.length == 3 && serial.length == 12 && model.length == 12 && sw.length == 2

/-- `i` has an encoding. -/
abbrev Instr.WellFormed (i : Instr) : Prop := i.wellFormed = true

end Sys2Proof
end

