-- ==== Sys2Proof/Decode.lean ====
section
/-! DEFINITION. Words and bytes taken apart and joined, the command table, the decoder and the encoder
(20_memory.md, 30_encoding.md, 41_framecodec.md sections 1 and 2). The decoder reads a frame without its checksum byte, the
form in which LINE hands a frame to PROTO (rules R30, R126); the checksum itself is LINE's test (R121). -/

namespace Sys2Proof

/-! ### Words, bytes and 16-bit fields -/

/-- The mode flag of a word (rules R11, R70). -/
def modeOf (w : Word9) : Bool := w.getLsbD 8

/-- The data byte of a word (rules R11, R70). -/
def dataOf (w : Word9) : Byte := w.extractLsb' 0 8

/-- The word with mode flag `m` and data `d`, `m*256 + d` (rule R11). -/
def mkWord (m : Bool) (d : Byte) : Word9 := BitVec.ofBool m ++ d

/-- `be16(h, l) = h*256 + l` (rules R12, R54). -/
def be16 (h l : Byte) : U16 := h ++ l

/-- The more significant byte (rule R12). -/
def hi8 (v : U16) : Byte := v.extractLsb' 8 8

/-- The less significant byte (rule R12). -/
def lo8 (v : U16) : Byte := v.extractLsb' 0 8

/-- `sum8`, and so `chk`: the sum of the bytes modulo 256 (rules R12, R73, R120). -/
def sum8 : List Byte → Byte
  | [] => 0
  | x :: xs => x + sum8 xs

/-- A frame is checksum-valid when its last byte is the sum of the bytes before it (rule R121). -/
def checksumValid (f : List Byte) : Bool :=
  decide (2 ≤ f.length) && decide (f.getLast? = some (sum8 f.dropLast))

/-! ### The address byte and the command table -/

/-- `b0[7:3]` (rule R72). -/
def addressOf (b0 : Byte) : Addr5 := b0.extractLsb' 3 5

/-- `b0[2:0]` (rules R72, R79). -/
def commandCode (b0 : Byte) : BitVec 3 := b0.extractLsb' 0 3

/-- `addr5*8 + cmd3` (rule R72). -/
def addressByte (a : Addr5) (c : BitVec 3) : Byte := a ++ c

/-- The command a code names (rule R77). -/
def commandOf (c : BitVec 3) : Option Command :=
  if c = 0 then some .reset
  else if c = 1 then some .setup
  else if c = 2 then some .poll
  else if c = 3 then some .vend
  else if c = 4 then some .reader
  else if c = 7 then some .expansion
  else none

/-- The code of a command (rule R77). -/
def commandNumber : Command → BitVec 3
  | .reset => 0
  | .setup => 1
  | .poll => 2
  | .vend => 3
  | .reader => 4
  | .expansion => 7

/-- SETUP's sub-commands (rule R78). -/
def setupKind (sub : Byte) : Option Kind :=
  if sub = 0x00 then some .configData else if sub = 0x01 then some .maxMinPrices else none

/-- VEND's sub-commands (rule R78). -/
def vendKind (sub : Byte) : Option Kind :=
  if sub = 0x00 then some .vendRequest
  else if sub = 0x01 then some .vendCancel
  else if sub = 0x02 then some .vendSuccess
  else if sub = 0x03 then some .vendFailure
  else if sub = 0x04 then some .sessionComplete
  else if sub = 0x05 then some .cashSale
  else none

/-- READER's sub-commands (rule R78). -/
def readerKind (sub : Byte) : Option Kind :=
  if sub = 0x00 then some .readerDisable
  else if sub = 0x01 then some .readerEnable
  else if sub = 0x02 then some .readerCancel
  else none

/-- EXPANSION's sub-command (rule R78). -/
def expansionKind (sub : Byte) : Option Kind :=
  if sub = 0x00 then some .requestId else none

/-- The kind the command code and the sub-command byte select (rule R80); RESET and POLL read no sub-command. -/
def kindOf (c : BitVec 3) (sub : Byte) : Option Kind :=
  match commandOf c with
  | some .reset => some .reset
  | some .poll => some .poll
  | some .setup => setupKind sub
  | some .vend => vendKind sub
  | some .reader => readerKind sub
  | some .expansion => expansionKind sub
  | none => none

/-- The total length of a request, its checksum included: column "n+1" of rule R82. -/
def kindLength : Kind → Nat
  | .reset => 2
  | .configData => 7
  | .maxMinPrices => 7
  | .poll => 2
  | .vendRequest => 7
  | .vendCancel => 3
  | .vendSuccess => 5
  | .vendFailure => 3
  | .sessionComplete => 3
  | .cashSale => 7
  | .readerDisable => 3
  | .readerEnable => 3
  | .readerCancel => 3
  | .requestId => 32

/-- `reqLen(cmd3, sub)` (rule R84). -/
def reqLen (c : BitVec 3) (sub : Byte) : Option Nat := (kindOf c sub).map kindLength

/-- The length known after byte 0 alone: RESET and POLL (rule R85). -/
def lengthFromCommand (c : BitVec 3) : Option Nat :=
  match commandOf c with
  | some .reset => some 2
  | some .poll => some 2
  | _ => none

/-! ### The decoder -/

/-- Why a byte list is no request. -/
inductive DecodeError where
  /-- no address byte; no rule names this frame (notes/assumptions/13.md) -/
  | emptyFrame
  /-- command code 5 or 6 (rule R90) -/
  | unassignedCommand
  /-- a sub-command value outside rule R78 (rule R90) -/
  | unassignedSub
  /-- not the length of rule R82 for its kind; no rule says what PROTO does with it (notes/assumptions/13.md) -/
  | wrongLength
deriving DecidableEq, Repr

/-- A payload without operands (rule R82). -/
def noOperands (i : Instr) : List Byte → Except DecodeError Instr
  | [] => .ok i
  | _ => .error .wrongLength

/-- A payload of one 16-bit field, its high byte first (rules R54, R82, R83). -/
def oneField (f : U16 → Instr) : List Byte → Except DecodeError Instr
  | [h, l] => .ok (f (be16 h l))
  | _ => .error .wrongLength

/-- A payload of two 16-bit fields (rules R54, R82, R83). -/
def twoFields (f : U16 → U16 → Instr) : List Byte → Except DecodeError Instr
  | [h1, l1, h0, l0] => .ok (f (be16 h1 l1) (be16 h0 l0))
  | _ => .error .wrongLength

/-- A payload of four bytes (rules R82, R83). -/
def fourBytes (f : Byte → Byte → Byte → Byte → Instr) : List Byte → Except DecodeError Instr
  | [p, q, r, s] => .ok (f p q r s)
  | _ => .error .wrongLength

/-- The payload of REQUEST_ID: 3, 12, 12 and 2 bytes (rules R82, R83). -/
def textFields (p : List Byte) : Except DecodeError Instr :=
  if p.length = 29 then
    .ok (.requestId (p.take 3) ((p.drop 3).take 12) ((p.drop 15).take 12) (p.drop 27))
  else .error .wrongLength

/-- The operands of a kind from the payload after the command and sub-command bytes (rules R82, R83). -/
def assemble : Kind → List Byte → Except DecodeError Instr
  | .reset => noOperands .reset
  | .configData => fourBytes .configData
  | .maxMinPrices => twoFields .maxMinPrices
  | .poll => noOperands .poll
  | .vendRequest => twoFields .vendRequest
  | .vendCancel => noOperands .vendCancel
  | .vendSuccess => oneField .vendSuccess
  | .vendFailure => noOperands .vendFailure
  | .sessionComplete => noOperands .sessionComplete
  | .cashSale => twoFields .cashSale
  | .readerDisable => noOperands .readerDisable
  | .readerEnable => noOperands .readerEnable
  | .readerCancel => noOperands .readerCancel
  | .requestId => textFields

/-- The decoder of a command with sub-commands: the sub-command byte selects the kind (rule R80). -/
def decodeSub (select : Byte → Option Kind) : List Byte → Except DecodeError Instr
  | [] => .error .wrongLength
  | sub :: payload =>
    match select sub with
    | some k => assemble k payload
    | none => .error .unassignedSub

/-- The request a frame without its checksum stands for (rules R80 to R83). -/
def decode : List Byte → Except DecodeError Instr
  | [] => .error .emptyFrame
  | b0 :: rest =>
    match commandOf (commandCode b0) with
    | some .reset => assemble .reset rest
    | some .poll => assemble .poll rest
    | some .setup => decodeSub setupKind rest
    | some .vend => decodeSub vendKind rest
    | some .reader => decodeSub readerKind rest
    | some .expansion => decodeSub expansionKind rest
    | none => .error .unassignedCommand

/-! ### The encoder -/

/-- `reqBytes(a, req)`: a request without its checksum (rules R82, R244). -/
def requestBytes (a : Addr5) : Instr → List Byte
  | .reset => [addressByte a 0]
  | .configData fl cols rows info => [addressByte a 1, 0x00, fl, cols, rows, info]
  | .maxMinPrices mx mn => [addressByte a 1, 0x01, hi8 mx, lo8 mx, hi8 mn, lo8 mn]
  | .poll => [addressByte a 2]
  | .vendRequest p n => [addressByte a 3, 0x00, hi8 p, lo8 p, hi8 n, lo8 n]
  | .vendCancel => [addressByte a 3, 0x01]
  | .vendSuccess n => [addressByte a 3, 0x02, hi8 n, lo8 n]
  | .vendFailure => [addressByte a 3, 0x03]
  | .sessionComplete => [addressByte a 3, 0x04]
  | .cashSale p n => [addressByte a 3, 0x05, hi8 p, lo8 p, hi8 n, lo8 n]
  | .readerDisable => [addressByte a 4, 0x00]
  | .readerEnable => [addressByte a 4, 0x01]
  | .readerCancel => [addressByte a 4, 0x02]
  | .requestId mfr serial model sw => [addressByte a 7, 0x00] ++ (mfr ++ (serial ++ (model ++ sw)))

/-- The words of `emitFrameM(xs)`: mode 1 on byte 0 only, then the checksum (rules R76, R124). -/
def masterFrame : List Byte → List Word9
  | [] => [mkWord false (sum8 [])]
  | x :: xs => mkWord true x :: (xs.map (mkWord false) ++ [mkWord false (sum8 (x :: xs))])

/-- The words of a request at bus address `a`. -/
def encode (a : Addr5) (i : Instr) : List Word9 := masterFrame (requestBytes a i)

/-! ### The opcode table's numbering -/

/-- Byte `k` of an instruction whose bits are `v` in the table's numbering. The table's word is the 16-bit selector
`(b0 << 8) | b1`, so of each 16-bit word the first byte is the high one (notes/assumptions/4.md). -/
def tableByte (v k : Nat) : Byte :=
  BitVec.ofNat 8 (v >>> (16 * (k / 2) + (if k % 2 = 0 then 8 else 0)))

/-- The frame, without its checksum, of the table word `w` of `nbits` bits: as many bytes as rule R82 gives its kind, those
above the table's bits zero. Where no kind is selected the two selector bytes stand. -/
def tableFrame (nbits w : Nat) : List Byte :=
  let v := w % 2 ^ nbits
  let n := (reqLen (commandCode (tableByte v 0)) (tableByte v 1)).getD 3
  (List.range (n - 1)).map (tableByte v)

/-- The instruction the decoder reads from the table word `w`. -/
def decodeTableWord (nbits w : Nat) : Option Instr :=
  match decode (tableFrame nbits w) with
  | .ok i => some i
  | .error _ => none

end Sys2Proof
end

