-- ==== Sys2Proof/Machine/State.lean ====
section
/-! DEFINITION. The state of a block (10_state.md), its error events (60_exceptions.md), what it shows to the outside
(rules R231, R275), the moves its agents, its host and its environment can make (rules R230, R240), the ways a step can
stop, and the state right after construction (rules R42, R43, R310). Everything is plain data. -/

namespace Sys2Proof.Machine

/-! ### A session of the PERIPHERAL variant -/

/-- `SessionState` (rule R22). -/
inductive SessionState where
  | inactive
  | disabled
  | enabled
  | idle
  | vend
deriving DecidableEq, Repr

/-- The seven pending-action flags (rule R23). -/
structure PendingActions where
  oos : Bool
  rstAck : Bool
  vApp : Bool
  vDen : Bool
  sEnd : Bool
  sBeg : Bool
  sCan : Bool
deriving DecidableEq, Repr

/-- No pending action. -/
def nothingPending : PendingActions := ⟨false, false, false, false, false, false, false⟩

/-- `VendContext` (rule R24). -/
structure VendContext where
  funds : U16
  price : U16
  item : U16
deriving DecidableEq, Repr

/-- The cleared context: "all three fields are set to 0" (rule R24). -/
def clearedContext : VendContext := ⟨0, 0, 0⟩

/-- An external trigger (rule R27). -/
inductive InboundCall where
  | requestSession (funds : U16)
  | approveVend
  | denyVend
  | cancelSession
deriving DecidableEq, Repr

/-- A notification of the PERIPHERAL variant (rule R28). -/
inductive Notification where
  | saleCompleted (price item : U16)
  | sessionEnded
deriving DecidableEq, Repr

/-- One session instance (rule R21). -/
structure Instance where
  st : SessionState
  pend : PendingActions
  ctx : VendContext
  approvalSent : Bool
  idleArmed : Bool
  vendArmed : Bool
  inq : Option InboundCall
  outSlot : Option Notification
deriving DecidableEq, Repr

/-- The frame assembler's phase (rule R29). -/
inductive RxPhase where
  | idle
  | skip
  | collect (a : Addr5) (buf : List Byte) (need : Option Nat)
deriving DecidableEq, Repr

/-! ### A mirror of the MASTER variant -/

/-- `HsStep`, in handshake order (rule R35). -/
inductive HsStep where
  | hReset
  | hWaitJr
  | hConfig
  | hMaxMin
  | hExpId
  | hEnable
  | hRun
deriving DecidableEq, Repr

/-- `PeripheralConfig` (rule R36). -/
structure PeripheralConfig where
  scaleFactor : Byte
  decimalPlaces : Byte
  responseTimeout : Byte
  miscellaneousOptions : Byte
deriving DecidableEq, Repr

/-- `EndStep` (rule R34): E_NONE, E_OWED, E_SENT. -/
inductive EndStep where
  | eNone
  | eOwed
  | eSent
deriving DecidableEq, Repr

/-- `HostCmd` (rule R38). -/
inductive HostCmd where
  | vendRequest (price item : U16)
  | vendOutcome (ok : Bool)
  | sessionComplete
  | cashSale (price item : U16)
  | readerDisable
  | readerEnable
  | readerCancel
deriving DecidableEq, Repr

/-- `MNotification` (rule R271). -/
inductive MNotification where
  | beginSession (funds : U16)
  | vendApproved (amount : U16)
  | vendDenied
  | sessionEnded
  | sessionCancelRequest
  | peripheralOffline
deriving DecidableEq, Repr

/-- One mirror instance (rule R34). -/
structure MInstance where
  mst : SessionState
  hs : HsStep
  misses : Nat
  pcfg : PeripheralConfig
  funds : U16
  price : U16
  item : U16
  approved : Bool
  endSt : EndStep
  hostSlot : Option HostCmd
  outSlot : Option MNotification
deriving DecidableEq, Repr

/-- `MPhase` (rule R37); the request is kept with its operands. -/
inductive MPhase where
  | mIdle
  | mAwait (a : Addr5) (req : Instr) (buf : List Word9)
deriving DecidableEq, Repr

/-- How a response is classified (rule R131); `noResponse` is the class NONE of a timeout (rules R250, R254). -/
inductive ResponseClass where
  | ack
  | nak
  | data (r : List Byte)
  | invalid
  | noResponse
deriving DecidableEq, Repr

/-! ### What a block shows -/

/-- The causes E1 records (rule R281). -/
inductive Corruption where
  | checksum
  | truncated
  | overlong
  | badLinkWord
deriving DecidableEq, Repr

/-- The slots E9 records (rule R281). -/
inductive SlotName where
  | rxSlot
  | txSlot
  | outSlot
deriving DecidableEq, Repr

/-- An entry of the error log: the code and the info of rule R281. Where two variants raise one code with info of two
shapes there is one constructor for each. -/
inductive ErrorEvent where
  /-- E1 TRANSPORT_CORRUPTION -/
  | e1 (cause : Corruption)
  /-- E2 ADDRESS_MISS -/
  | e2 (a : Addr5)
  /-- E3 OUT_OF_SEQUENCE at a peripheral: the kind and the state it arrived in (rule R212) -/
  | e3 (k : Kind) (st : SessionState)
  /-- E3 OUT_OF_SEQUENCE at a master, reported by the peer (rule R266) -/
  | e3Peer (a : Addr5)
  /-- E4 RESPONSE_TIMEOUT -/
  | e4 (a : Addr5) (req : Instr)
  /-- E5 EXTERNAL_OVERFLOW of `inq` (rule R219) -/
  | e5 (a : Addr5) (c : InboundCall)
  /-- E5 EXTERNAL_OVERFLOW of `hostSlot` (rule R270) -/
  | e5Master (a : Addr5) (c : HostCmd)
  /-- E6 UNASSIGNED_ENCODING: the address byte, and the sub-command byte if read -/
  | e6 (b0 : Byte) (sub : Option Byte)
  /-- E7 PERIPHERAL_OFFLINE -/
  | e7 (a : Addr5)
  /-- E8 UNEXPECTED_RESPONSE -/
  | e8 (a : Addr5) (req : Instr) (c : ResponseClass)
  /-- E9 HANDOFF_OVERWRITE -/
  | e9 (slot : SlotName)
  /-- E10 HOST_CALL_IGNORED at a peripheral: the call and the state (rules R220 to R223) -/
  | e10 (c : InboundCall) (st : SessionState)
  /-- E10 HOST_CALL_IGNORED at a master: the address and the command (rule R242), and the mirror's state (rule R281) -/
  | e10Master (a : Addr5) (c : HostCmd) (st : SessionState)
deriving DecidableEq, Repr

/-- A notification the host has read, tagged with its address (rules R227, R271). -/
inductive Observed where
  | peripheral (a : Addr5) (n : Notification)
  | master (a : Addr5) (n : MNotification)
deriving DecidableEq, Repr

/-- What a host send returns (rules R219, R270). -/
inductive SendResult where
  | accepted
  | dropped
deriving DecidableEq, Repr

/-! ### Moves -/

/-- A step of rule R230 (PERIPHERAL) or rule R240 (MASTER): one atomic action of an agent, the host or the environment. -/
inductive Move where
  /-- a word received from the line, both variants (rule R112) -/
  | rxWord (w : Word9)
  /-- LINE transmits the response in `txSlot` (rule R129) -/
  | transmit
  /-- PROTO takes and executes the frame in `rxSlot` (rule R210) -/
  | frame
  /-- PROTO applies the call in an instance's `inq` (rule R224) -/
  | consume (a : Addr5)
  /-- a host call of the PERIPHERAL variant (rule R217) -/
  | hostCall (a : Addr5) (c : InboundCall)
  /-- the host reads an `outSlot`, both variants (rules R227, R271) -/
  | hostRead (a : Addr5)
  /-- the idle window of an instance ends (rule R228) -/
  | idleTimeout (a : Addr5)
  /-- the vend window of an instance ends (rule R229) -/
  | vendTimeout (a : Addr5)
  /-- MSEQ starts a transaction (rule R241) -/
  | start
  /-- the response window ends (rule R254) -/
  | rspTimeout
  /-- a host command of the MASTER variant (rule R270) -/
  | hostCmd (a : Addr5) (c : HostCmd)
deriving DecidableEq, Repr

/-! ### The block -/

/-- A block of either variant. The fields `inst`, `rx`, `rxSlot`, `txSlot` are PState (rule R21), the fields `mirror`, `turn`,
`phase` are MState (rule R34), `cfg` the parameters and constant records (rules R8, R32, R33). `out`, `log`, `seen` and
`results` are the observations of rules R231 and R275 that `emit`, `raise` and the host steps append to (rules R14, R280).
`agenda` is the MODEL's: which move comes next, since rule R15 lets any enabled one (notes/assumptions/2.md). -/
structure State where
  cfg : Config
  inst : List (Addr5 × Instance)
  rx : RxPhase
  rxSlot : Option (Addr5 × List Byte)
  txSlot : Option (List Word9)
  mirror : List (Addr5 × MInstance)
  turn : Nat
  phase : MPhase
  out : List Word9
  log : List ErrorEvent
  seen : List Observed
  results : List (Addr5 × SendResult)
  agenda : List Move
deriving DecidableEq, Repr

/-- Why the machine stops. -/
inductive Fault where
  /-- PROTO was handed a frame that is no request. Raised by the frame step. For the unassigned codes (`unassignedCommand`,
  `unassignedSub`) rule R194 asks for it: "A model whose PROTO is handed such a frame by some other path must fault, not answer".
  For an empty frame and for a frame of an assigned kind whose length is not R82's (`emptyFrame`, `wrongLength`) the spec says
  nothing, and the fault is the model's: DESIGN CHOICE, notes/assumptions/13.md. Safe: LINE delivers none of these. -/
  | unassignedFrame (why : DecodeError)
deriving DecidableEq, Repr

/-- Why the model gives no step. -/
inductive Refusal where
  /-- An instruction without a meaning. Raised by no arm of `exec`: all fourteen request kinds are modelled. Safe. -/
  | notModelled (mnemonic : String)
  /-- Parameters outside rules R9 and R312: "A model instantiated outside these constraints is refused, not run". Raised by
  construction and by `step`. Safe: the spec asks for it. -/
  | invalidParameters
deriving DecidableEq, Repr

/-! ### Construction -/

/-- A session instance after construction (rule R42): `rstAck` set, everything else clear. -/
def newInstance : Instance where
  st := .inactive
  pend := ⟨false, true, false, false, false, false, false⟩
  ctx := clearedContext
  approvalSent := false
  idleArmed := false
  vendArmed := false
  inq := none
  outSlot := none

/-- `PeripheralConfig` before it is learned (rule R36). -/
def defaultPcfg (cfg : Config) : PeripheralConfig := ⟨1, 0, cfg.tRespDefault, 0⟩

/-- A mirror instance after construction (rule R43). -/
def newMirror (cfg : Config) : MInstance where
  mst := .inactive
  hs := .hReset
  misses := 0
  pcfg := defaultPcfg cfg
  funds := 0
  price := 0
  item := 0
  approved := false
  endSt := .eNone
  hostSlot := none
  outSlot := none

/-- The block of parameters `cfg` after construction (rules R42, R43, R310). A PERIPHERAL has an instance for each owned
address and no mirror, a MASTER a mirror for each polled address and no instance (rules R3, R21, R34). -/
def State.construct (cfg : Config) : State where
  cfg := cfg
  inst := match cfg.role with
    | .peripheral => cfg.ownAddrs.map fun a => (a, newInstance)
    | .master => []
  rx := .idle
  rxSlot := none
  txSlot := none
  mirror := match cfg.role with
    | .peripheral => []
    | .master => cfg.addrs.map fun a => (a, newMirror cfg)
  turn := 0
  phase := .mIdle
  out := []
  log := []
  seen := []
  results := []
  agenda := []

/-- The machine right after reset: the block of the parameters `Config.standard` after construction (rule R310), with no
move chosen for it. -/
def State.reset : State := State.construct Config.standard

end Sys2Proof.Machine
end

