-- ==== Sys2Proof/Machine/Ops.lean ====
section
/-! DEFINITION. The named operations over the state: the tables of instances, the output stream, the error log, the slots, and
what PROTO does around a command rule. `State.raise` is the whole of an exception on this hardware: rule R283 gives the core
no trap, so raising an error appends to the log and the rule that raised it recovers in the same step (rules R280, R282). -/

namespace Sys2Proof.Machine

/-! ### Tables keyed by bus address -/

/-- The entry of address `a`. -/
def lookupAt {α : Type} (a : Addr5) : List (Addr5 × α) → Option α
  | [] => none
  | (b, v) :: rest => if b = a then some v else lookupAt a rest

/-- The table with the entry of address `a` replaced; an address without an entry gets none. -/
def updateAt {α : Type} (a : Addr5) (v : α) : List (Addr5 × α) → List (Addr5 × α)
  | [] => []
  | (b, u) :: rest => if b = a then (b, v) :: rest else (b, u) :: updateAt a v rest

/-- `I[a]` (rules R13, R21). -/
def State.instanceAt (s : State) (a : Addr5) : Option Instance := lookupAt a s.inst

/-- `I[a] <- i`. -/
def State.putInstance (s : State) (a : Addr5) (i : Instance) : State :=
  { s with inst := updateAt a i s.inst }

/-- `M[a]` (rule R34). -/
def State.mirrorAt (s : State) (a : Addr5) : Option MInstance := lookupAt a s.mirror

/-- `M[a] <- m`. -/
def State.putMirror (s : State) (a : Addr5) (m : MInstance) : State :=
  { s with mirror := updateAt a m s.mirror }

/-! ### Outputs and observations -/

/-- `raise E<k>(info)` for each event of the list in turn (rules R14, R280): the log grows and nothing else changes. -/
def State.raise (s : State) (es : List ErrorEvent) : State := { s with log := s.log ++ es }

/-- `emit(w)` for each word of the list in turn (rules R14, R112). -/
def State.emit (s : State) (ws : List Word9) : State := { s with out := s.out ++ ws }

/-- The host reads a notification (rules R227, R271). -/
def State.observe (s : State) (o : Observed) : State := { s with seen := s.seen ++ [o] }

/-- A host send returns `r` (rules R219, R270). -/
def State.answerHost (s : State) (a : Addr5) (r : SendResult) : State :=
  { s with results := s.results ++ [(a, r)] }

/-- The event of a latest-value write to a slot: E9 where it overwrites a value, nothing otherwise (rules R60, R281). -/
def overwriteEvent {α : Type} (old : Option α) (slot : SlotName) : List ErrorEvent :=
  match old with
  | some _ => [.e9 slot]
  | none => []

/-! ### Words a PERIPHERAL answers with -/

/-- The words of `emitFrameP(xs)`: mode 0 on every byte, then the checksum with mode 1 (rules R76, R123). -/
def frameP (xs : List Byte) : List Word9 := xs.map (mkWord false) ++ [mkWord true (sum8 xs)]

/-- The peripheral's ACK, the word 0x100 (rules R75, R125). -/
def ackP : List Word9 := [mkWord true 0x00]

/-- The master's ACK, the word 0x000 (rules R75, R125). -/
def ackM : List Word9 := [mkWord false 0x00]

/-! ### The frame step of PROTO -/

/-- What a command rule gives: the instance after it, the response, whether it took a branch other than `oos` (rule R210),
and the errors it raised, in order. -/
structure CmdResult where
  inst : Instance
  resp : List Word9
  accepted : Bool
  errs : List ErrorEvent
deriving DecidableEq, Repr

/-- `notify(n)` (rule R226). -/
def notify (i : Instance) (n : Notification) : Instance := { i with outSlot := some n }

/-- The error of `notify`: E9 where an unread notification is lost (rule R226). -/
def notifyEvent (i : Instance) : List ErrorEvent := overwriteEvent i.outSlot .outSlot

/-- The restart of the idle window after an accepted command other than POLL (the last statement of rule R210). -/
def restartIdle (k : Kind) (r : CmdResult) : Instance :=
  if k ≠ .poll ∧ r.accepted = true ∧ r.inst.st = .idle ∧ r.inst.pend.sEnd = false ∧ r.inst.pend.sCan = false then
    { r.inst with idleArmed := true }
  else r.inst

/-- PROTO's response and the instance of address `a` are written and the frame is taken (rule R210). -/
def State.answer (s : State) (a : Addr5) (k : Kind) (r : CmdResult) : State :=
  { s with
    rxSlot := none
    inst := updateAt a (restartIdle k r) s.inst
    txSlot := some r.resp
    log := s.log ++ (r.errs ++ overwriteEvent s.txSlot .txSlot) }

/-- A frame for an address that is not owned is "discarded without altering state" (rule R50) with E2 (rules R122, R128). LINE
never delivers one; notes/assumptions/6.md. -/
def State.discard (s : State) (a : Addr5) : State :=
  { s with rxSlot := none, log := s.log ++ [.e2 a] }

/-- The frame step of rule R210 around the command rule `rule` of kind `k`, for the frame in `rxSlot`. Without a frame the
step is not enabled and nothing happens. -/
def protoFrame (k : Kind) (rule : Config → Instance → CmdResult) (s : State) : Host.Outcome State Fault Refusal :=
  match s.rxSlot with
  | none => .next s
  | some (a, _) =>
    match s.instanceAt a with
    | none => .next (s.discard a)
    | some i => .next (s.answer a k (rule s.cfg i))

end Sys2Proof.Machine
end

