-- ==== Sys2Proof/Machine/Operands.lean ====
section
/-! DEFINITION. The two constant records `MemRead` reads (rules R53, R88, R89), the responses with their operands
(rules R86, R87), and the checks on the parameters (rules R9, R312). -/

namespace Sys2Proof.Machine

/-! ### Constant records -/

/-- `MemRead(CAP, 8)` (rules R53, R88). -/
def capRecord (cfg : Config) : List Byte :=
  [0x01, cfg.capFeatureLevel, hi8 cfg.capCountry, lo8 cfg.capCountry, cfg.capScale, cfg.capDecimals,
    cfg.capMaxResp, cfg.capOptions]

/-- `MemRead(ID, 30)` (rules R53, R55, R89). -/
def idRecord (cfg : Config) : List Byte :=
  0x09 :: (cfg.idMfr ++ (cfg.idSerial ++ (cfg.idModel ++ cfg.idSwver)))

/-! ### Responses -/

/-- JUST_RESET (rule R87). -/
def respJustReset : List Word9 := frameP [0x00]
/-- READER_CONFIG_DATA (rule R87). -/
def respConfig (cfg : Config) : List Word9 := frameP (capRecord cfg)
/-- BEGIN_SESSION (rule R87). -/
def respBeginSession (funds : U16) : List Word9 := frameP [0x03, hi8 funds, lo8 funds]
/-- SESSION_CANCEL_REQUEST (rule R87). -/
def respCancelRequest : List Word9 := frameP [0x04]
/-- VEND_APPROVED (rule R87). -/
def respVendApproved (amount : U16) : List Word9 := frameP [0x05, hi8 amount, lo8 amount]
/-- VEND_DENIED (rule R87). -/
def respVendDenied : List Word9 := frameP [0x06]
/-- END_SESSION (rule R87). -/
def respEndSession : List Word9 := frameP [0x07]
/-- CANCELLED (rule R87). -/
def respCancelled : List Word9 := frameP [0x08]
/-- PERIPHERAL_ID (rule R87). -/
def respId (cfg : Config) : List Word9 := frameP (idRecord cfg)
/-- OUT_OF_SEQUENCE (rule R87). -/
def respOutOfSequence : List Word9 := frameP [0x0B]

/-! ### Parameters -/

/-- An address list of rule R9: not empty (R8), without duplicate and without address 0. -/
def addressesOk (as : List Addr5) : Bool := !as.isEmpty && decide as.Nodup && !as.contains 0

/-- The constraints of rules R8, R9 and R312 that the parameters' types do not already make. -/
def configOk (cfg : Config) : Bool :=
  addressesOk cfg.ownAddrs && addressesOk cfg.addrs && cfg.capScale != 0 && cfg.idMfr.length == 3 &&
    cfg.idSerial.length == 12 && cfg.idModel.length == 12 && cfg.idSwver.length == 2 && cfg.vmcId.length == 29

/-- A block is constructed from parameters that meet the constraints; others are refused (rules R9, R312). -/
def instantiate (cfg : Config) : Host.Outcome State Fault Refusal :=
  if configOk cfg then .next (State.construct cfg) else .refused .invalidParameters

end Sys2Proof.Machine
end

