-- ==== Sys2Proof/Machine/Flags.lean ====
section
/-! DEFINITION. The flags of a session instance: the out-of-sequence path (rule R212), the change of state that withdraws the
flags of the state left and starts the window of the state entered (rule R213), and the drain of the pending actions in their
fixed priority (rules R160 to R168). The core has no other flags (rule R39). -/

namespace Sys2Proof.Machine

/-- `oos(i)` (rule R212): the flag is set, E3 raised, ACK returned and nothing else changes. -/
def oos (k : Kind) (i : Instance) : CmdResult where
  inst := { i with pend := { i.pend with oos := true } }
  resp := ackP
  accepted := false
  errs := [.e3 k i.st]

/-- An accepted branch that answers `resp` and raises nothing. -/
def accept (i : Instance) (resp : List Word9) : CmdResult := ⟨i, resp, true, []⟩

/-- What leaving a state withdraws (rule R213). -/
def leaveState (i : Instance) : Instance :=
  match i.st with
  | .vend =>
    { i with pend := { i.pend with vApp := false, vDen := false }, approvalSent := false, vendArmed := false }
  | .enabled => { i with pend := { i.pend with sBeg := false } }
  | .idle => { i with pend := { i.pend with sCan := false, sEnd := false }, idleArmed := false }
  | .inactive => i
  | .disabled => i

/-- What entering a state starts (rule R213). -/
def enterState (i : Instance) (st : SessionState) : Instance :=
  match st with
  | .idle => { i with st := .idle, idleArmed := true }
  | .vend => { i with st := .vend, vendArmed := true }
  | .inactive => { i with st := .inactive }
  | .disabled => { i with st := .disabled }
  | .enabled => { i with st := .enabled }

/-- `setState(i, s)` (rule R213). -/
def setState (i : Instance) (st : SessionState) : Instance :=
  if st = i.st then i else enterState (leaveState i) st

/-- The part of RESET that the out-of-sequence drain shares under `OOS_TO_INACTIVE` (rules R150, R161): every flag, the
context, the approval and both timers cleared, the state INACTIVE. `inq` and `outSlot` keep their contents. -/
def clearSession (i : Instance) : Instance :=
  { i with
    st := .inactive
    pend := nothingPending
    ctx := clearedContext
    approvalSent := false
    idleArmed := false
    vendArmed := false }

/-- Drain out-of-sequence (rule R161). -/
def drainOos (cfg : Config) (i : Instance) : CmdResult :=
  if cfg.oosToInactive then accept (clearSession i) respOutOfSequence
  else accept { i with pend := { i.pend with oos := false } } respOutOfSequence

/-- Drain reset-acknowledge (rule R162). -/
def drainRstAck (i : Instance) : CmdResult :=
  accept { i with pend := { i.pend with rstAck := false } } respJustReset

/-- Drain vend-approved (rule R163). -/
def drainVApp (i : Instance) : CmdResult :=
  accept { i with pend := { i.pend with vApp := false }, approvalSent := true, vendArmed := false }
    (respVendApproved i.ctx.price)

/-- Drain vend-denied (rule R164). -/
def drainVDen (i : Instance) : CmdResult :=
  accept (setState { i with pend := { i.pend with vDen := false } } .idle) respVendDenied

/-- Drain session-end (rule R165). -/
def drainSEnd (i : Instance) : CmdResult where
  inst := notify { setState { i with pend := { i.pend with sEnd := false } } .enabled with ctx := clearedContext }
    .sessionEnded
  resp := respEndSession
  accepted := true
  errs := notifyEvent i

/-- Drain session-begin (rule R166). -/
def drainSBeg (i : Instance) : CmdResult :=
  accept (setState { i with pend := { i.pend with sBeg := false } } .idle) (respBeginSession i.ctx.funds)

/-- Drain session-cancel (rule R167). -/
def drainSCan (i : Instance) : CmdResult :=
  accept { i with pend := { i.pend with sCan := false }, idleArmed := true } respCancelRequest

/-- `drain(i)`, in the fixed priority (rule R160); with nothing pending the response is ACK (rule R168). -/
def drain (cfg : Config) (i : Instance) : CmdResult :=
  if i.pend.oos then drainOos cfg i
  else if i.pend.rstAck then drainRstAck i
  else if i.pend.vApp then drainVApp i
  else if i.pend.vDen then drainVDen i
  else if i.pend.sEnd then drainSEnd i
  else if i.pend.sBeg then drainSBeg i
  else if i.pend.sCan then drainSCan i
  else accept i ackP

end Sys2Proof.Machine
end

