-- ==== Sys2Proof/Machine/Host.lean ====
section
/-! DEFINITION. The host interface and the session timers of the PERIPHERAL variant (45_session.md sections 4 and 5). -/

namespace Sys2Proof.Machine

/-- Apply `RequestSession(f)` (rule R220). -/
def applyRequestSession (f : U16) (i : Instance) : Instance × List ErrorEvent :=
  if i.st = .enabled ∧ i.pend.sBeg = false then
    ({ i with ctx := { i.ctx with funds := f }, pend := { i.pend with sBeg := true } }, [])
  else (i, [.e10 (.requestSession f) i.st])

/-- A vend not yet decided: the guard of rules R221 and R222. -/
def vendUndecided (i : Instance) : Bool :=
  i.st == .vend && !i.pend.vApp && !i.pend.vDen && !i.approvalSent

/-- Apply `ApproveVend` (rule R221). -/
def applyApproveVend (i : Instance) : Instance × List ErrorEvent :=
  if vendUndecided i then ({ i with pend := { i.pend with vApp := true }, vendArmed := false }, [])
  else (i, [.e10 .approveVend i.st])

/-- Apply `DenyVend` (rule R222). -/
def applyDenyVend (i : Instance) : Instance × List ErrorEvent :=
  if vendUndecided i then ({ i with pend := { i.pend with vDen := true }, vendArmed := false }, [])
  else (i, [.e10 .denyVend i.st])

/-- Apply `CancelSession` (rule R223). -/
def applyCancelSession (i : Instance) : Instance × List ErrorEvent :=
  if i.st = .idle ∧ i.pend.sEnd = false then
    ({ i with pend := { i.pend with sCan := true }, idleArmed := false }, [])
  else if i.st = .enabled then ({ i with pend := { i.pend with sBeg := false } }, [])
  else (i, [.e10 .cancelSession i.st])

/-- Apply an inbound call (rules R220 to R223). -/
def applyCall (c : InboundCall) (i : Instance) : Instance × List ErrorEvent :=
  match c with
  | .requestSession f => applyRequestSession f i
  | .approveVend => applyApproveVend i
  | .denyVend => applyDenyVend i
  | .cancelSession => applyCancelSession i

/-- The consume step of PROTO on instance `a` (rule R224). -/
def consumeCall (s : State) (a : Addr5) : State :=
  match s.instanceAt a with
  | none => s
  | some i =>
    match i.inq with
    | none => s
    | some c =>
      let r := applyCall c { i with inq := none }
      (s.putInstance a r.1).raise r.2

/-- A host call: the send into `inq` (rules R217, R219), dropped with E5 where one is already there. -/
def sendCall (s : State) (a : Addr5) (c : InboundCall) : State :=
  match s.instanceAt a with
  | none => s
  | some i =>
    match i.inq with
    | none => (s.putInstance a { i with inq := some c }).answerHost a .accepted
    | some _ => (s.raise [.e5 a c]).answerHost a .dropped

/-- The host reads the notification of instance `a` (rule R227). -/
def readNotification (s : State) (a : Addr5) : State :=
  match s.instanceAt a with
  | none => s
  | some i =>
    match i.outSlot with
    | none => s
    | some n => (s.putInstance a { i with outSlot := none }).observe (.peripheral a n)

/-- `IDLE_TIMEOUT(a)`, for the guard of rule R228. -/
def idleTimeout (s : State) (a : Addr5) : State :=
  match s.instanceAt a with
  | none => s
  | some i => s.putInstance a { i with pend := { i.pend with sCan := true }, idleArmed := false }

/-- `VEND_TIMEOUT(a)`, for the guard of rule R229. -/
def vendTimeout (s : State) (a : Addr5) : State :=
  match s.instanceAt a with
  | none => s
  | some i => s.putInstance a { i with pend := { i.pend with vDen := true }, vendArmed := false }

end Sys2Proof.Machine
end

