-- ==== Sys2Proof/Machine/FrameCodec.lean ====
section
/-! DEFINITION. FrameCodec (41_framecodec.md): the PERIPHERAL's receive step and delivery, LINE's transmit step, and the
classification of a response at the MASTER. The checksum and the frame writers stand in Sys2Proof/Decode.lean and Ops.lean. -/

namespace Sys2Proof.Machine

/-- `owns(b0)`: "the top 5 bits of byte 0" are an owned address (rules R72, R122). -/
def State.owns (s : State) (b0 : Byte) : Bool := s.cfg.ownAddrs.contains (addressOf b0)

/-- `raise E1(truncated)` where a partial frame is dropped (rule R126). -/
def truncationEvent : RxPhase → List ErrorEvent
  | .collect _ _ _ => [.e1 .truncated]
  | .idle => []
  | .skip => []

/-- A mode-flagged word starts a frame (rule R126): the next phase and the error of the new frame's first byte. The checks are
in the order of rule R287 (c): the address, then the command code. -/
def startFrame (s : State) (d : Byte) : RxPhase × List ErrorEvent :=
  if s.owns d then
    match commandOf (commandCode d) with
    | none => (.skip, [.e6 d none])
    | some _ => (.collect (addressOf d) [d] (lengthFromCommand (commandCode d)), [])
  else (.skip, [.e2 (addressOf d)])

/-- `deliver(a, f)` (rule R127): the frame overwrites `rxSlot`, E9 where one was not yet taken. -/
def State.deliver (s : State) (a : Addr5) (f : List Byte) : State :=
  { s with rxSlot := some (a, f), log := s.log ++ overwriteEvent s.rxSlot .rxSlot }

/-- The total length of the frame whose first two bytes are `b0` and the sub-command byte (rules R84, R85, R126). -/
def bufferLength : List Byte → Option Nat
  | b0 :: sub :: _ => reqLen (commandCode b0) sub
  | _ => none

/-- The error of an unassigned sub-command: the address byte and the sub-command byte (rule R126). -/
def subcommandEvent : List Byte → List ErrorEvent
  | b0 :: sub :: _ => [.e6 b0 (some sub)]
  | _ => []

/-- A frame of known length `need` has grown to `buf` (rule R126): it goes on, or it is complete and its checksum decides. -/
def State.collectFrame (s : State) (a : Addr5) (buf : List Byte) (need : Nat) : State :=
  if buf.length < need then { s with rx := .collect a buf (some need) }
  else if checksumValid buf then ({ s with rx := .idle }).deliver a (buf.take (need - 1))
  else { s with rx := .idle, log := s.log ++ [.e1 .checksum] }

/-- The receive step of LINE on `rxWord(w)` (rule R126). -/
def receiveWord (s : State) (w : Word9) : State :=
  if modeOf w then
    let next := startFrame s (dataOf w)
    { s with rx := next.1, log := s.log ++ (truncationEvent s.rx ++ next.2) }
  else
    match s.rx with
    | .idle => s
    | .skip => s
    | .collect a buf need =>
      let buf' := buf ++ [dataOf w]
      match need with
      | some n => s.collectFrame a buf' n
      | none =>
        match bufferLength buf' with
        | none => { s with rx := .skip, log := s.log ++ subcommandEvent buf' }
        | some n => s.collectFrame a buf' n

/-- LINE is between frames, the condition of the transmit step (rule R129). -/
def betweenFrames : RxPhase → Bool
  | .idle => true
  | .skip => true
  | .collect _ _ _ => false

/-- The transmit step of LINE: the whole response goes out as one step (rule R129). -/
def transmit (s : State) : State :=
  match s.txSlot with
  | none => s
  | some ws => ({ s with txSlot := none }).emit ws

/-- `classify(u)` of a response that ended in a mode-flagged word (rule R131), with the errors it raises. -/
def classify (u : List Word9) : ResponseClass × List ErrorEvent :=
  match u with
  | [w] =>
    if w = mkWord true 0x00 then (.ack, [])
    else if w = mkWord true 0xFF then (.nak, [])
    else (.invalid, [.e1 .badLinkWord])
  | _ =>
    if checksumValid (u.map dataOf) then (.data (u.dropLast.map dataOf), [])
    else (.invalid, [.e1 .checksum])

end Sys2Proof.Machine
end

