-- ==== Sys2Proof/Machine/Master.lean ====
section
/-! DEFINITION. MasterSequencer (46_master.md): request selection, the response reader, the completion of a transaction, the
effects on the mirror, and the MASTER's host interface. -/

namespace Sys2Proof.Machine

/-- A mirror after a rule, with the errors the rule raised, in order. -/
structure MirrorResult where
  m : MInstance
  errs : List ErrorEvent
deriving DecidableEq, Repr

/-! ### Request selection -/

/-- `applicable(c, m)` (rule R272). -/
def applicable (c : HostCmd) (m : MInstance) : Bool :=
  match c with
  | .vendRequest _ _ => m.mst == .idle && m.endSt == .eNone
  | .vendOutcome true => m.mst == .vend && m.approved
  | .vendOutcome false => m.mst == .vend
  | .sessionComplete => (m.mst == .idle || m.mst == .vend) && m.endSt != .eSent
  | .cashSale _ _ => m.mst != .inactive
  | .readerDisable => m.mst == .disabled || m.mst == .enabled
  | .readerEnable => m.mst == .disabled || m.mst == .enabled
  | .readerCancel => m.mst == .disabled || m.mst == .enabled

/-- `request(c)` (rule R272); VEND_SUCCESS carries the item of the vend in progress. -/
def hostRequest (m : MInstance) (c : HostCmd) : Instr :=
  match c with
  | .vendRequest p n => .vendRequest p n
  | .vendOutcome true => .vendSuccess m.item
  | .vendOutcome false => .vendFailure
  | .sessionComplete => .sessionComplete
  | .cashSale p n => .cashSale p n
  | .readerDisable => .readerDisable
  | .readerEnable => .readerEnable
  | .readerCancel => .readerCancel

/-- `CONFIG_DATA(VMC_CONFIG)` (rules R242, R244). -/
def vmcConfigRequest (cfg : Config) : Instr :=
  .configData cfg.vmcConfig.featureLevel cfg.vmcConfig.displayColumns cfg.vmcConfig.displayRows
    cfg.vmcConfig.displayInfo

/-- `REQUEST_ID(VMC_ID)` (rules R242, R244): the 29 bytes as the four fields of rule R82. -/
def vmcIdRequest (cfg : Config) : Instr :=
  .requestId (cfg.vmcId.take 3) ((cfg.vmcId.drop 3).take 12) ((cfg.vmcId.drop 15).take 12) (cfg.vmcId.drop 27)

/-- `select(a)` in H_RUN (rule R242): the owed SESSION_COMPLETE first, then an applicable host command, then POLL; an
inapplicable host command is removed with E10, which records the address, the command and the mirror's state (rule R281). -/
def selectRun (a : Addr5) (m : MInstance) : Instr × MirrorResult :=
  if m.endSt = .eOwed ∧ m.mst = .idle then (.sessionComplete, ⟨m, []⟩)
  else
    match m.hostSlot with
    | none => (.poll, ⟨m, []⟩)
    | some c =>
      if applicable c m then (hostRequest m c, ⟨m, []⟩)
      else (.poll, ⟨{ m with hostSlot := none }, [.e10Master a c m.mst]⟩)

/-- `select(a)` (rule R242). -/
def selectRequest (cfg : Config) (a : Addr5) (m : MInstance) : Instr × MirrorResult :=
  match m.hs with
  | .hReset => (.reset, ⟨m, []⟩)
  | .hWaitJr => (.poll, ⟨m, []⟩)
  | .hConfig => (vmcConfigRequest cfg, ⟨m, []⟩)
  | .hMaxMin => (.maxMinPrices cfg.vmcMaxPrice cfg.vmcMinPrice, ⟨m, []⟩)
  | .hExpId => (vmcIdRequest cfg, ⟨m, []⟩)
  | .hEnable => (.readerEnable, ⟨m, []⟩)
  | .hRun => selectRun a m

/-- The address whose turn it is, `ADDRS[turn]` (rule R241). -/
def State.turnAddress (s : State) : Option Addr5 := s.cfg.addrs[s.turn]?

/-- Start a transaction (rule R241): the whole request is emitted in this one step. -/
def startTransaction (s : State) : State :=
  match s.turnAddress with
  | none => s
  | some a =>
    match s.mirrorAt a with
    | none => s
    | some m =>
      let r := selectRequest s.cfg a m
      { ((s.putMirror a r.2.m).raise r.2.errs).emit (encode a r.1) with phase := .mAwait a r.1 [] }

/-! ### Effects on a mirror -/

/-- `notifyM(a, n)` (rule R271), with the E9 of an unread notification. -/
def notifyMaster (m : MInstance) (n : MNotification) : MirrorResult :=
  ⟨{ m with outSlot := some n }, overwriteEvent m.outSlot .outSlot⟩

/-- `restart(a, h)` (rule R252): `hostSlot` and `outSlot` are not touched. -/
def restart (cfg : Config) (m : MInstance) (h : HsStep) : MInstance :=
  { m with
    mst := .inactive
    hs := h
    misses := 0
    pcfg := defaultPcfg cfg
    funds := 0
    price := 0
    item := 0
    approved := false
    endSt := .eNone }

/-- `offline(a)` (rule R255). -/
def offline (cfg : Config) (a : Addr5) (m : MInstance) : MirrorResult :=
  let r := notifyMaster (restart cfg m .hReset) .peripheralOffline
  ⟨r.m, .e7 a :: r.errs⟩

/-- `miss(a, req)` (rule R253): only a POLL counts. -/
def missResponse (cfg : Config) (a : Addr5) (req : Instr) (m : MInstance) : MirrorResult :=
  match req with
  | .poll =>
    let counted := { m with misses := m.misses + 1 }
    if cfg.maxPollMisses ≤ counted.misses then offline cfg a counted else ⟨counted, []⟩
  | _ => ⟨m, []⟩

/-- A data response to a POLL that names an event (rules R86, R87, R251). -/
inductive PollEvent where
  | justReset
  | outOfSequence
  | beginSession (funds : U16)
  | vendApproved (amount : U16)
  | vendDenied
  | endSession
  | cancelRequest
deriving DecidableEq, Repr

/-- The event of a data response, which "requires the exact length of 30_encoding.md rule R87 for its code" (rule R251). -/
def pollEvent (r : List Byte) : Option PollEvent :=
  match r with
  | [c] =>
    if c = 0x00 then some .justReset
    else if c = 0x04 then some .cancelRequest
    else if c = 0x06 then some .vendDenied
    else if c = 0x07 then some .endSession
    else if c = 0x0B then some .outOfSequence
    else none
  | [c, h, l] =>
    if c = 0x03 then some (.beginSession (be16 h l))
    else if c = 0x05 then some (.vendApproved (be16 h l))
    else none
  | _ => none

/-- The mirror states in which an event is expected (rule R251, the rows of POLL in H_RUN). -/
def eventExpected (m : MInstance) (e : PollEvent) : Bool :=
  match e with
  | .justReset => true
  | .outOfSequence => true
  | .beginSession _ => m.mst == .enabled
  | .vendApproved _ => m.mst == .vend && !m.approved
  | .vendDenied => m.mst == .vend && !m.approved
  | .endSession => m.mst == .idle
  | .cancelRequest => m.mst == .idle

/-- The expected responses to a POLL (rule R251). -/
def pollExpected (m : MInstance) (c : ResponseClass) : Bool :=
  match m.hs with
  | .hWaitJr => c == .ack || c == .data [0x00]
  | .hRun =>
    match c with
    | .ack => true
    | .data r =>
      match pollEvent r with
      | some e => eventExpected m e
      | none => false
    | _ => false
  | _ => false

/-- A data response that starts with `code` and has `len` bytes (rule R251). -/
def isRecord (code : Byte) (len : Nat) (c : ResponseClass) : Bool :=
  match c with
  | .data r => decide (r.head? = some code) && decide (r.length = len)
  | _ => false

/-- `expected(req, m, class)` (rule R251). The MASTER never sends VEND_CANCEL, so no row expects an answer to it (R244). -/
def expectedResponse (req : Instr) (m : MInstance) (c : ResponseClass) : Bool :=
  match req with
  | .reset => c == .ack
  | .configData _ _ _ _ => isRecord 0x01 8 c
  | .maxMinPrices _ _ => c == .ack
  | .poll => pollExpected m c
  | .vendRequest _ _ => c == .ack
  | .vendCancel => false
  | .vendSuccess _ => c == .ack
  | .vendFailure => c == .ack
  | .sessionComplete => c == .ack
  | .cashSale _ _ => c == .ack
  | .readerDisable => c == .ack
  | .readerEnable => c == .ack
  | .readerCancel => c == .data [0x08]
  | .requestId _ _ _ _ => isRecord 0x09 30 c

/-- The PeripheralConfig in the 8-byte capability record (rules R36, R257). -/
def learnPcfg (r : List Byte) : PeripheralConfig :=
  ⟨r.getD 4 0, r.getD 5 0, r.getD 6 0, r.getD 7 0⟩

/-- The effect of an event reported to a POLL in H_RUN (rules R263 to R268). -/
def eventEffect (cfg : Config) (a : Addr5) (m : MInstance) (e : PollEvent) : MirrorResult :=
  match e with
  | .beginSession f => notifyMaster { m with mst := .idle, funds := f, endSt := .eNone } (.beginSession f)
  | .vendApproved v => notifyMaster { m with approved := true } (.vendApproved v)
  | .vendDenied => notifyMaster { m with mst := .idle } .vendDenied
  | .endSession =>
    notifyMaster
      { m with mst := .enabled, funds := 0, price := 0, item := 0, approved := false, endSt := .eNone } .sessionEnded
  | .outOfSequence => ⟨restart cfg m .hReset, [.e3Peer a]⟩
  | .cancelRequest => notifyMaster { m with endSt := .eOwed } .sessionCancelRequest
  | .justReset => ⟨restart cfg m .hConfig, []⟩

/-- The effect of an expected response to a POLL (rules R258, R263 to R269). -/
def pollEffect (cfg : Config) (a : Addr5) (m : MInstance) (c : ResponseClass) : MirrorResult :=
  match m.hs with
  | .hWaitJr => if c = .data [0x00] then ⟨{ m with hs := .hConfig }, []⟩ else ⟨m, []⟩
  | .hRun =>
    match c with
    | .data r =>
      match pollEvent r with
      | some e => eventEffect cfg a m e
      | none => ⟨m, []⟩
    | _ => ⟨m, []⟩
  | _ => ⟨m, []⟩

/-- The end of a host command in H_RUN (the last sentence of rule R262): the slot is emptied when its command built `req`. -/
def endHostCmd (req : Instr) (m : MInstance) : MInstance :=
  match m.hostSlot with
  | none => m
  | some c => if m.hs = .hRun ∧ hostRequest m c = req then { m with hostSlot := none } else m

/-- `effect(req, m, class)` of an expected response (rules R256 to R269). -/
def responseEffect (cfg : Config) (a : Addr5) (req : Instr) (m : MInstance) (c : ResponseClass) : MirrorResult :=
  match req with
  | .reset => ⟨{ m with hs := .hWaitJr }, []⟩
  | .configData _ _ _ _ =>
    match c with
    | .data r => ⟨{ m with pcfg := learnPcfg r, mst := .disabled, hs := .hMaxMin }, []⟩
    | _ => ⟨m, []⟩
  | .poll => pollEffect cfg a m c
  | .maxMinPrices _ _ => ⟨{ m with hs := .hExpId }, []⟩
  | .requestId _ _ _ _ => ⟨{ m with hs := .hEnable }, []⟩
  | .readerEnable =>
    if m.hs = .hEnable then ⟨{ m with mst := .enabled, hs := .hRun }, []⟩
    else ⟨endHostCmd req { m with mst := .enabled }, []⟩
  | .vendRequest p n => ⟨endHostCmd req { m with mst := .vend, price := p, item := n, approved := false }, []⟩
  | .vendSuccess _ => ⟨endHostCmd req { m with mst := .idle, approved := false }, []⟩
  | .vendFailure => ⟨endHostCmd req { m with mst := .idle, approved := false }, []⟩
  | .sessionComplete => ⟨endHostCmd req { m with mst := .idle, approved := false, endSt := .eSent }, []⟩
  | .cashSale _ _ => ⟨endHostCmd req m, []⟩
  | .readerDisable => ⟨endHostCmd req { m with mst := .disabled }, []⟩
  | .readerCancel => ⟨endHostCmd req m, []⟩
  | .vendCancel => ⟨m, []⟩

/-! ### Completing a transaction -/

/-- What a completed transaction does to the mirror (rule R250): a valid response ends the run of misses and has its effect, or
is unexpected and restarts the handshake with E8; anything else is a miss. -/
def completeMirror (cfg : Config) (a : Addr5) (req : Instr) (c : ResponseClass) (m : MInstance) : MirrorResult :=
  match c with
  | .ack | .data _ =>
    if expectedResponse req m c then responseEffect cfg a req { m with misses := 0 } c
    else ⟨restart cfg m .hReset, [.e8 a req c]⟩
  | .nak | .invalid | .noResponse => missResponse cfg a req m

/-- The master's ACK after every data response (rules R250, R273). -/
def masterAck : ResponseClass → List Word9
  | .data _ => ackM
  | .ack | .nak | .invalid | .noResponse => []

/-- The end of every transaction (rule R243). -/
def endTurn (s : State) : State := { s with turn := (s.turn + 1) % s.cfg.addrs.length, phase := .mIdle }

/-- The mirror part of `complete` on the block. -/
def settleMirror (s : State) (a : Addr5) (req : Instr) (c : ResponseClass) : State :=
  match s.mirrorAt a with
  | none => s
  | some m =>
    let r := completeMirror s.cfg a req c m
    (s.putMirror a r.m).raise r.errs

/-- `complete(a, req, class)` (rule R250). -/
def complete (s : State) (a : Addr5) (req : Instr) (c : ResponseClass) : State :=
  endTurn (settleMirror (s.emit (masterAck c)) a req c)

/-- The response receive step of MSEQ (rule R130); a word received in M_IDLE is ignored. -/
def receiveResponse (s : State) (w : Word9) : State :=
  match s.phase with
  | .mIdle => s
  | .mAwait a req buf =>
    let buf' := buf ++ [w]
    if modeOf w then
      let r := classify buf'
      complete (s.raise r.2) a req r.1
    else if buf'.length = s.cfg.maxRspLen then (complete s a req .invalid).raise [.e1 .overlong]
    else { s with phase := .mAwait a req buf' }

/-- `RSP_TIMEOUT` (rule R254). -/
def responseTimeout (s : State) : State :=
  match s.phase with
  | .mIdle => s
  | .mAwait a req _ => complete (s.raise [.e4 a req]) a req .noResponse

/-! ### Host interface -/

/-- `sendM(a, c)` (rule R270). -/
def sendHostCmd (s : State) (a : Addr5) (c : HostCmd) : State :=
  match s.mirrorAt a with
  | none => s
  | some m =>
    match m.hostSlot with
    | none => (s.putMirror a { m with hostSlot := some c }).answerHost a .accepted
    | some _ => (s.raise [.e5Master a c]).answerHost a .dropped

/-- The host reads the notification of mirror `a` (rule R271). -/
def readMasterNotification (s : State) (a : Addr5) : State :=
  match s.mirrorAt a with
  | none => s
  | some m =>
    match m.outSlot with
    | none => s
    | some n => (s.putMirror a { m with outSlot := none }).observe (.master a n)

end Sys2Proof.Machine
end

