-- ==== Sys2Proof/Machine/Agents.lean ====
section
/-! DEFINITION. The moves of a block: when each is enabled (the tables of rules R230 and R240), what each does but for the frame
step (Sys2Proof/Machine/Step.lean), which move the block makes when none is chosen for it, and PROTO's fetch. -/

namespace Sys2Proof.Machine

/-- The guard of a move on the session instance of `a`. -/
def State.instanceIs (s : State) (a : Addr5) (p : Instance → Bool) : Bool :=
  match s.instanceAt a with
  | none => false
  | some i => p i

/-- The guard of a move on the mirror instance of `a`. -/
def State.mirrorIs (s : State) (a : Addr5) (p : MInstance → Bool) : Bool :=
  match s.mirrorAt a with
  | none => false
  | some m => p m

/-- The guards of a PERIPHERAL block's steps (rule R230). -/
def peripheralEnabled (s : State) : Move → Bool
  | .rxWord _ => true
  | .transmit => s.txSlot.isSome && betweenFrames s.rx
  | .frame => s.rxSlot.isSome
  | .consume a => s.instanceIs a fun i => i.inq.isSome
  | .hostCall a _ => s.instanceIs a fun _ => true
  | .hostRead a => s.instanceIs a fun i => i.outSlot.isSome
  | .idleTimeout a => s.instanceIs a fun i => i.idleArmed && i.st == .idle
  | .vendTimeout a => s.instanceIs a fun i => i.vendArmed && i.st == .vend
  | .start => false
  | .rspTimeout => false
  | .hostCmd _ _ => false

/-- The guards of a MASTER block's steps (rule R240). -/
def masterEnabled (s : State) : Move → Bool
  | .rxWord _ => true
  | .start => s.phase == .mIdle
  | .rspTimeout => s.phase != .mIdle
  | .hostCmd a _ => s.mirrorIs a fun _ => true
  | .hostRead a => s.mirrorIs a fun m => m.outSlot.isSome
  | .transmit => false
  | .frame => false
  | .consume _ => false
  | .hostCall _ _ => false
  | .idleTimeout _ => false
  | .vendTimeout _ => false

/-- Whether a move is a step of the block's role and its guard holds (rules R230, R240). -/
def enabled (s : State) (mv : Move) : Bool :=
  match s.cfg.role with
  | .peripheral => peripheralEnabled s mv
  | .master => masterEnabled s mv

/-- `rxWord(w)`, taken by LINE or by MSEQ (rule R112). -/
def receive (s : State) (w : Word9) : State :=
  match s.cfg.role with
  | .peripheral => receiveWord s w
  | .master => receiveResponse s w

/-- The host read of either variant (rules R227, R271). -/
def hostRead (s : State) (a : Addr5) : State :=
  match s.cfg.role with
  | .peripheral => readNotification s a
  | .master => readMasterNotification s a

/-- The effect of every move but the frame step, for an enabled move. -/
def performMove (s : State) : Move → State
  | .rxWord w => receive s w
  | .transmit => transmit s
  | .frame => s
  | .consume a => consumeCall s a
  | .hostCall a c => sendCall s a c
  | .hostRead a => hostRead s a
  | .idleTimeout a => idleTimeout s a
  | .vendTimeout a => vendTimeout s a
  | .start => startTransaction s
  | .rspTimeout => responseTimeout s
  | .hostCmd a c => sendHostCmd s a c

/-- The first address whose instance holds an inbound call. -/
def firstCall : List (Addr5 × Instance) → Option Addr5
  | [] => none
  | (a, i) :: rest => if i.inq.isSome then some a else firstCall rest

/-- The move a block makes when `agenda` names none (notes/assumptions/2.md): a PERIPHERAL transmits, else takes a frame, else
consumes a call; a MASTER starts a transaction. None where no agent has an enabled step: the block waits (rules R113, R230). -/
def idleMove (s : State) : Option Move :=
  match s.cfg.role with
  | .peripheral =>
    if peripheralEnabled s .transmit then some .transmit
    else if peripheralEnabled s .frame then some .frame
    else (firstCall s.inst).map .consume
  | .master => if masterEnabled s .start then some .start else none

/-- PROTO's fetch: the request the frame in `rxSlot` stands for (`k <- kind(f)` of rule R210, with its operands). -/
def State.fetch (s : State) : Option (Except DecodeError Instr) := s.rxSlot.map fun af => decode af.2

end Sys2Proof.Machine
end

