-- ==== Sys2Proof/Machine/ReaderExpansion.lean ====
section
/-! DEFINITION. The READER commands and EXPANSION/REQUEST_ID (44_cmd_reader_expansion.md). -/

namespace Sys2Proof.Machine

/-- DISABLED or ENABLED: the states in which READER and REQUEST_ID are accepted (rules R190 to R193, D13). -/
def readerReady (i : Instance) : Bool := i.st == .disabled || i.st == .enabled

/-- READER/DISABLE on an instance (rule R190). -/
def cmdReaderDisable (_ : Config) (i : Instance) : CmdResult :=
  if readerReady i then accept (setState i .disabled) ackP else oos .readerDisable i

/-- READER/DISABLE (rule R190). -/
def execReaderDisable (s : State) : Host.Outcome State Fault Refusal := protoFrame .readerDisable cmdReaderDisable s

/-- READER/ENABLE on an instance (rule R191). -/
def cmdReaderEnable (_ : Config) (i : Instance) : CmdResult :=
  if readerReady i then accept (setState i .enabled) ackP else oos .readerEnable i

/-- READER/ENABLE (rule R191). -/
def execReaderEnable (s : State) : Host.Outcome State Fault Refusal := protoFrame .readerEnable cmdReaderEnable s

/-- READER/CANCEL on an instance (rule R192). -/
def cmdReaderCancel (_ : Config) (i : Instance) : CmdResult :=
  if readerReady i then accept { i with pend := { i.pend with sBeg := false } } respCancelled
  else oos .readerCancel i

/-- READER/CANCEL (rule R192). -/
def execReaderCancel (s : State) : Host.Outcome State Fault Refusal := protoFrame .readerCancel cmdReaderCancel s

/-- EXPANSION/REQUEST_ID on an instance (rule R193). -/
def cmdRequestId (cfg : Config) (i : Instance) : CmdResult :=
  if readerReady i then accept i (respId cfg) else oos .requestId i

/-- EXPANSION/REQUEST_ID (rule R193); the master's identification is "read and ignored" (D26). -/
def execRequestId (_manufacturerCode _serialNumber _modelNumber _softwareVersion : List Byte) (s : State) :
    Host.Outcome State Fault Refusal := protoFrame .requestId cmdRequestId s

end Sys2Proof.Machine
end

