-- ==== Sys2Proof/Machine/ResetSetupPoll.lean ====
section
/-! DEFINITION. The commands RESET, SETUP and POLL (42_cmd_reset_setup_poll.md). -/

namespace Sys2Proof.Machine

/-- RESET on an instance (rules R150, R151): accepted in every state; a vend whose approval was transmitted is notified as a
sale first. -/
def cmdReset (_ : Config) (i : Instance) : CmdResult :=
  let cleared := { clearSession i with pend := { nothingPending with rstAck := true } }
  if i.st = .vend ∧ i.approvalSent = true then
    { inst := notify cleared (.saleCompleted i.ctx.price i.ctx.item)
      resp := ackP
      accepted := true
      errs := notifyEvent i }
  else accept cleared ackP

/-- RESET (rule R150). -/
def execReset (s : State) : Host.Outcome State Fault Refusal := protoFrame .reset cmdReset s

/-- SETUP/CONFIG_DATA on an instance (rule R152). -/
def cmdConfigData (cfg : Config) (i : Instance) : CmdResult :=
  match i.st with
  | .inactive => accept (setState i .disabled) (respConfig cfg)
  | .disabled => accept (setState i .disabled) (respConfig cfg)
  | .enabled => oos .configData i
  | .idle => oos .configData i
  | .vend => oos .configData i

/-- SETUP/CONFIG_DATA (rule R152); "the block reads none of" its operands (D26). -/
def execConfigData (_vmcFeatureLevel _displayColumns _displayRows _displayInfo : Byte) (s : State) :
    Host.Outcome State Fault Refusal := protoFrame .configData cmdConfigData s

/-- SETUP/MAX_MIN_PRICES on an instance (rule R153). -/
def cmdMaxMinPrices (_ : Config) (i : Instance) : CmdResult :=
  match i.st with
  | .disabled => accept i ackP
  | .enabled => accept i ackP
  | .inactive => oos .maxMinPrices i
  | .idle => oos .maxMinPrices i
  | .vend => oos .maxMinPrices i

/-- SETUP/MAX_MIN_PRICES (rule R153); the limits are kept nowhere (D26). -/
def execMaxMinPrices (_maxPrice _minPrice : U16) (s : State) : Host.Outcome State Fault Refusal :=
  protoFrame .maxMinPrices cmdMaxMinPrices s

/-- POLL (rule R154): the drain, accepted in every state. -/
def execPoll (s : State) : Host.Outcome State Fault Refusal := protoFrame .poll drain s

end Sys2Proof.Machine
end

