-- ==== Sys2Proof/Machine/Vend.lean ====
section
/-! DEFINITION. The VEND commands (43_cmd_vend.md). -/

namespace Sys2Proof.Machine

/-- A vend entered in IDLE (rule R170): the context written, the state changed, and under `AUTO_APPROVE` the approval or denial
decided by the unsigned comparison of rule R176. -/
def beginVend (cfg : Config) (i : Instance) (price item : U16) : Instance :=
  let v := setState { i with ctx := { i.ctx with price := price, item := item } } .vend
  if cfg.autoApprove then
    if price ≤ i.ctx.funds then { v with pend := { v.pend with vApp := true }, vendArmed := false }
    else { v with pend := { v.pend with vDen := true }, vendArmed := false }
  else v

/-- VEND/VEND_REQUEST on an instance (rule R170). -/
def cmdVendRequest (price item : U16) (cfg : Config) (i : Instance) : CmdResult :=
  if i.st = .idle ∧ i.pend.sEnd = false then accept (beginVend cfg i price item) ackP
  else if i.st = .vend ∧ price = i.ctx.price ∧ item = i.ctx.item then accept i ackP
  else oos .vendRequest i

/-- VEND/VEND_REQUEST (rule R170). -/
def execVendRequest (itemPrice itemNumber : U16) (s : State) : Host.Outcome State Fault Refusal :=
  protoFrame .vendRequest (cmdVendRequest itemPrice itemNumber) s

/-- VEND/VEND_CANCEL on an instance (rule R171). -/
def cmdVendCancel (_ : Config) (i : Instance) : CmdResult :=
  if i.st = .vend ∧ i.approvalSent = false then
    accept { i with pend := { i.pend with vApp := false, vDen := true }, vendArmed := false } ackP
  else if i.st = .idle then accept i ackP
  else oos .vendCancel i

/-- VEND/VEND_CANCEL (rule R171). -/
def execVendCancel (s : State) : Host.Outcome State Fault Refusal := protoFrame .vendCancel cmdVendCancel s

/-- VEND/VEND_SUCCESS on an instance (rule R172). -/
def cmdVendSuccess (_ : Config) (i : Instance) : CmdResult :=
  if i.st = .vend ∧ i.approvalSent = true then
    { inst := setState (notify i (.saleCompleted i.ctx.price i.ctx.item)) .idle
      resp := ackP
      accepted := true
      errs := notifyEvent i }
  else if i.st = .idle then accept i ackP
  else oos .vendSuccess i

/-- VEND/VEND_SUCCESS (rule R172); the item number "is not compared with `i.ctx.item` and not used" (D52). -/
def execVendSuccess (_itemNumber : U16) (s : State) : Host.Outcome State Fault Refusal :=
  protoFrame .vendSuccess cmdVendSuccess s

/-- VEND/VEND_FAILURE on an instance (rule R173). -/
def cmdVendFailure (_ : Config) (i : Instance) : CmdResult :=
  match i.st with
  | .vend => accept (setState i .idle) ackP
  | .idle => accept i ackP
  | .inactive => oos .vendFailure i
  | .disabled => oos .vendFailure i
  | .enabled => oos .vendFailure i

/-- VEND/VEND_FAILURE (rule R173). -/
def execVendFailure (s : State) : Host.Outcome State Fault Refusal := protoFrame .vendFailure cmdVendFailure s

/-- The session ends at the next POLL (rule R174): IDLE, `sCan` withdrawn, `sEnd` set, the idle window stopped. -/
def owingEnd (i : Instance) : Instance :=
  let j := setState i .idle
  { j with pend := { j.pend with sCan := false, sEnd := true }, idleArmed := false }

/-- VEND/SESSION_COMPLETE on an instance (rule R174). -/
def cmdSessionComplete (_ : Config) (i : Instance) : CmdResult :=
  match i.st with
  | .idle => accept (owingEnd i) ackP
  | .vend => accept (owingEnd i) ackP
  | .enabled => accept i ackP
  | .inactive => oos .sessionComplete i
  | .disabled => oos .sessionComplete i

/-- VEND/SESSION_COMPLETE (rule R174). -/
def execSessionComplete (s : State) : Host.Outcome State Fault Refusal :=
  protoFrame .sessionComplete cmdSessionComplete s

/-- VEND/CASH_SALE on an instance (rule R175). -/
def cmdCashSale (_ : Config) (i : Instance) : CmdResult :=
  if i.st = .inactive then oos .cashSale i else accept i ackP

/-- VEND/CASH_SALE (rule R175); price and item are "read and ignored" (D55). -/
def execCashSale (_itemPrice _itemNumber : U16) (s : State) : Host.Outcome State Fault Refusal :=
  protoFrame .cashSale cmdCashSale s

end Sys2Proof.Machine
end

