-- ==== Sys2Proof/Machine/Dispatch.lean ====
section
/-! DEFINITION. The dispatch on the request kind (rule R211): one arm per constructor, each one call of its meaning. -/

namespace Sys2Proof.Machine

/-- The meaning of a request: PROTO's frame step on the frame in `rxSlot`, whose address says which instance (rules R210, R211). -/
def exec (i : Instr) (s : State) : Host.Outcome State Fault Refusal :=
  match i with
  | .reset => Sys2Proof.Machine.execReset s
  | .configData fl cols rows info => Sys2Proof.Machine.execConfigData fl cols rows info s
  | .maxMinPrices mx mn => Sys2Proof.Machine.execMaxMinPrices mx mn s
  | .poll => Sys2Proof.Machine.execPoll s
  | .vendRequest price item => Sys2Proof.Machine.execVendRequest price item s
  | .vendCancel => Sys2Proof.Machine.execVendCancel s
  | .vendSuccess item => Sys2Proof.Machine.execVendSuccess item s
  | .vendFailure => Sys2Proof.Machine.execVendFailure s
  | .sessionComplete => Sys2Proof.Machine.execSessionComplete s
  | .cashSale price item => Sys2Proof.Machine.execCashSale price item s
  | .readerDisable => Sys2Proof.Machine.execReaderDisable s
  | .readerEnable => Sys2Proof.Machine.execReaderEnable s
  | .readerCancel => Sys2Proof.Machine.execReaderCancel s
  | .requestId mfr serial model sw => Sys2Proof.Machine.execRequestId mfr serial model sw s

end Sys2Proof.Machine
end

