-- ==== Sys2Proof/Machine/Step.lean ====
section
/-! DEFINITION. One step of a block (rules R15, R230, R240), and where the host puts a request so that the next step runs it. -/

namespace Sys2Proof.Machine

/-- PROTO's frame step (rule R210): the frame in `rxSlot` is fetched and executed. A frame with an unassigned code faults (rule
R194). That an empty frame and one of the wrong length for its kind fault too is a DESIGN CHOICE (notes/assumptions/13.md). -/
def frameStep (s : State) : Host.Outcome State Fault Refusal :=
  match s.fetch with
  | none => .next s
  | some (.ok i) => exec i s
  | some (.error why) => .fault (.unassignedFrame why)

/-- An enabled move is performed as one atomic step; a move whose guard does not hold is no step and changes nothing. -/
def takeMove (s : State) (mv : Move) : Host.Outcome State Fault Refusal :=
  if enabled s mv then
    match mv with
    | .frame => frameStep s
    | mv => .next (performMove s mv)
  else .next s

/-- One step: the move at the head of `agenda`, or where it is empty the move the block makes on its own, if any. Parameters
that break rules R9 and R312 are refused. -/
def step (s : State) : Host.Outcome State Fault Refusal :=
  if configOk s.cfg then
    match s.agenda with
    | mv :: rest => takeMove { s with agenda := rest } mv
    | [] =>
      match idleMove s with
      | some mv => takeMove s mv
      | none => .next s
  else .refused .invalidParameters

/-- The address a table word's frame is handed over with: its own where the block owns it, else the first owned one, since the
table leaves the address free ("any owned address"). -/
def State.slotAddress (s : State) (f : List Byte) : Addr5 :=
  let a := addressOf (f.headD 0)
  if (s.instanceAt a).isSome then a else (s.cfg.ownAddrs.head?).getD a

/-- `s` with the request of table word `w` in PROTO's hand-off slot, as LINE delivers a checksum-valid frame, and the frame step
chosen as the next move (notes/assumptions/3.md). -/
def State.withFetchWord (s : State) (nbits w : Nat) : State :=
  let f := tableFrame nbits w
  { s with rxSlot := some (s.slotAddress f, f), agenda := .frame :: s.agenda }

end Sys2Proof.Machine
end

