-- ==== Sys2Proof/Machine/BitLink.lean ====
section
/-! DEFINITION. BitLink below the word level (40_bitlink.md rules R101 to R108): the levels of a word on the line, the
bit-banged transmitter and receiver, and the parity-assisted UART. The word-level machine does not read this file (rule R112);
it is the refinement `sendWord9` and `receiveWord9` stand for. A level is a Bool, true for logic 1 (mark). -/

namespace Sys2Proof.Machine

/-- The data bits of a byte, least significant first (rules R52, R101). -/
def bitsLsbFirst (d : Byte) : List Bool :=
  [d.getLsbD 0, d.getLsbD 1, d.getLsbD 2, d.getLsbD 3, d.getLsbD 4, d.getLsbD 5, d.getLsbD 6, d.getLsbD 7]

/-- The eleven bit times of a word: start 0, d[0]..d[7], the mode bit, stop 1 (rule R101). -/
def wordLevels (w : Word9) : List Bool := [false] ++ bitsLsbFirst (dataOf w) ++ [modeOf w] ++ [true]

/-! ### Cycle-counted form (LINK_IMPL = BITBANG) -/

/-- The line over half bit times. `drive(level, T)` holds the line for two of them (rule R103). -/
def drive (level : Bool) : List Bool := [level, level]

/-- `sendWord9(w)`, bit-banged (rule R103), as the line over half bit times. -/
def sendBitbang (w : Word9) : List Bool := (wordLevels w).flatMap drive

/-- Wait until the line falls from 1 to 0 (rule R104): the line from that edge on; none where it never falls, which is the
blocking of rule R113. `before` is the level before the first half bit. -/
def waitFall (before : Bool) : List Bool → Option (List Bool)
  | [] => none
  | x :: xs => if before = true ∧ x = false then some (x :: xs) else waitFall x xs

/-- The level `k` half bit times after the edge the list starts at. -/
def sampleAt (levels : List Bool) (k : Nat) : Option Bool := levels[k]?

/-- The byte whose bit i was sampled i-th (rule R104). -/
def byteOfBits (b : Nat → Bool) : Byte :=
  BitVec.ofBool (b 7) ++ BitVec.ofBool (b 6) ++ BitVec.ofBool (b 5) ++ BitVec.ofBool (b 4) ++ BitVec.ofBool (b 3) ++
    BitVec.ofBool (b 2) ++ BitVec.ofBool (b 1) ++ BitVec.ofBool (b 0)

/-- What a receiver samples of a word on the line: the data byte, the ninth bit, and the line from the ninth bit's sample on. -/
structure Samples where
  data : Byte
  ninth : Bool
  rest : List Bool
deriving DecidableEq, Repr

/-- The samples of the next word (rule R104). Bit i is sampled `(1.5 + i) T` after the edge, which is half bit `3 + 2 i`, and the
ninth bit at `9.5 T`, half bit 19. The stop bit "is not checked" (R105), so there are samples whatever follows. None where the
line gives no start or ends inside the word. Both forms of receiver sample alike (rule R108; notes/assumptions/11.md). -/
def sampleWord (before : Bool) (line : List Bool) : Option Samples :=
  match waitFall before line with
  | none => none
  | some rest =>
    match sampleAt rest 19 with
    | none => none
    | some m => some ⟨byteOfBits fun i => (sampleAt rest (3 + 2 * i)).getD true, m, rest.drop 19⟩

/-- `receiveWord9()`, bit-banged (rule R104): the ninth bit is the mode flag. -/
def receiveBitbang (before : Bool) (line : List Bool) : Option (Word9 × List Bool) :=
  (sampleWord before line).map fun r => (mkWord r.ninth r.data, r.rest)

/-! ### Parity-assisted UART form (LINK_IMPL = PARITY_UART) -/

/-- The parity settings of a UART (rules R106, R107). -/
inductive UartParity where
  | mark
  | space
  | even
  | odd
deriving DecidableEq, Repr

/-- `popcount(d) mod 2` as a Bool. -/
def oddPopcount (d : Byte) : Bool := (bitsLsbFirst d).foldr Bool.xor false

/-- The parity bit a UART of setting `p` sends with, and expects after, the byte `d`. -/
def parityBit (p : UartParity) (d : Byte) : Bool :=
  match p with
  | .mark => true
  | .space => false
  | .even => oddPopcount d
  | .odd => !oddPopcount d

/-- The setting a transmitter with mark and space parity selects (rule R106). -/
def sendParityMarkSpace (w : Word9) : UartParity := if modeOf w then .mark else .space

/-- The setting a transmitter with even and odd parity only selects (rule R106). -/
def sendParityEvenOdd (w : Word9) : UartParity := if modeOf w = oddPopcount (dataOf w) then .even else .odd

/-- The eleven bit times a UART of setting `p` puts on the line for the byte `d` (rule R106). -/
def uartLevels (p : UartParity) (d : Byte) : List Bool :=
  [false] ++ bitsLsbFirst d ++ [parityBit p d] ++ [true]

/-- The parity-error indication of a UART of fixed setting `p` that received the byte `d` and the parity bit `b` (rule R107). -/
def uartError (p : UartParity) (d : Byte) (b : Bool) : Bool := b != parityBit p d

/-- The parity-error indication of a receiver of fixed setting `p` for the word `w` on the line (rule R107). -/
def parityError (p : UartParity) (w : Word9) : Bool := uartError p (dataOf w) (modeOf w)

/-- `receiveWord9()` on a UART of fixed setting `p`: the mode flag from the byte and the parity-error indication, in the four
cases of rule R107. -/
def receiveUart (p : UartParity) (d : Byte) (e : Bool) : Word9 :=
  match p with
  | .space => mkWord e d
  | .mark => mkWord (!e) d
  | .even => mkWord (Bool.xor (oddPopcount d) e) d
  | .odd => mkWord (Bool.xor (!oddPopcount d) e) d

/-- `receiveWord9()` on a UART of fixed setting `p`, from the line (rule R107): the UART samples the word, gives the byte and the
parity-error indication, and the mode flag is recovered from them. A framing error is ignored, as R107 has it. -/
def receiveParityUart (p : UartParity) (before : Bool) (line : List Bool) : Option (Word9 × List Bool) :=
  (sampleWord before line).map fun r => (receiveUart p r.data (uartError p r.data r.ninth), r.rest)

/-! ### Either form -/

/-- The waveform of `sendWord9(w)` over half bit times under `LINK_IMPL` (rules R103, R106). `markSpace` says which parity
settings the UART has; it has no part in the bit-banged form. -/
def sendWord9 (impl : LinkImpl) (markSpace : Bool) (w : Word9) : List Bool :=
  match impl with
  | .bitbang => sendBitbang w
  | .parityUart =>
    (uartLevels (if markSpace then sendParityMarkSpace w else sendParityEvenOdd w) (dataOf w)).flatMap drive

/-- `receiveWord9()` under `LINK_IMPL` (rules R104, R107): the next word on the line and the line after its ninth bit's sample.
`p` is the setting of the UART; it has no part in the bit-banged form. -/
def receiveWord9 (impl : LinkImpl) (p : UartParity) (before : Bool) (line : List Bool) : Option (Word9 × List Bool) :=
  match impl with
  | .bitbang => receiveBitbang before line
  | .parityUart => receiveParityUart p before line

/-- The waveform of every word a block has emitted, the line at rest (mark) for `idle k` half bit times before the word number
`k`. Within a frame rule R330 reckons with no gap; rule R331 gives no time between words, frames or transactions and has a model
"not assume any", so `idle` is an argument. That it counts half bit times is a DESIGN CHOICE (notes/assumptions/11.md). -/
def State.lineOutput (s : State) (markSpace : Bool) (idle : Nat → Nat) : List Bool :=
  s.out.zipIdx.flatMap fun wk => List.replicate (idle wk.2) true ++ sendWord9 s.cfg.linkImpl markSpace wk.1

end Sys2Proof.Machine
end

