-- ==== Sys2Proof/Machine/Joined.lean ====
section
/-! DEFINITION. A MASTER and a PERIPHERAL joined by a perfect line (rules R274, R314 and 95_test_vectors.md section 3): "every
word one block emits is the other's next `rxWord`". `Joined.step` is one atomic step of the joined system: the next word on the
line arrives, or a block, its host or its environment makes a move of its own, at any point of a transaction. `transact` runs one
whole transaction in the order of a master that waits for each response. -/

namespace Sys2Proof.Machine

/-- The words `t` has emitted since `s` (rule R112). -/
def emittedSince (s t : State) : List Word9 := t.out.drop s.out.length

/-- A block hears the words in order, each one `rxWord` (rule R112). -/
def hear (s : State) (ws : List Word9) : State := ws.foldl receive s

/-- A move of a block, where it answers a next state; another outcome leaves the block. -/
def tryMove (s : State) (mv : Move) : State :=
  match takeMove s mv with
  | .next t => t
  | .fault _ => s
  | .refused _ => s

/-! ### Step by step -/

/-- The two blocks and the words under way between them, the oldest first (rule R274: "every word intact, in order, and to the
other block only"). -/
structure Joined where
  master : State
  peripheral : State
  toPeripheral : List Word9
  toMaster : List Word9
deriving DecidableEq, Repr

/-- A step of the joined system. -/
inductive JoinedMove where
  /-- the oldest word under way to the PERIPHERAL arrives -/
  | arriveAtPeripheral
  /-- the oldest word under way to the MASTER arrives -/
  | arriveAtMaster
  /-- a move of the MASTER, its host or its environment -/
  | master (mv : Move)
  /-- a move of the PERIPHERAL, its host or its environment -/
  | peripheral (mv : Move)
deriving DecidableEq, Repr

/-- The words a block hears come from the other block only, by the two arrivals. -/
def Move.isWord : Move → Bool
  | .rxWord _ => true
  | .transmit => false
  | .frame => false
  | .consume _ => false
  | .hostCall _ _ => false
  | .hostRead _ => false
  | .idleTimeout _ => false
  | .vendTimeout _ => false
  | .start => false
  | .rspTimeout => false
  | .hostCmd _ _ => false

/-- The MASTER makes `mv` and what it emits is put on the line. -/
def Joined.moveMaster (j : Joined) (mv : Move) : Joined :=
  let m := tryMove j.master mv
  { j with master := m, toPeripheral := j.toPeripheral ++ emittedSince j.master m }

/-- The PERIPHERAL makes `mv` and what it emits is put on the line. -/
def Joined.movePeripheral (j : Joined) (mv : Move) : Joined :=
  let p := tryMove j.peripheral mv
  { j with peripheral := p, toMaster := j.toMaster ++ emittedSince j.peripheral p }

/-- One step of the joined system. An arrival with nothing under way and a word from elsewhere are no steps and change nothing. -/
def Joined.step (j : Joined) : JoinedMove → Joined
  | .arriveAtPeripheral =>
    match j.toPeripheral with
    | [] => j
    | w :: ws => { j with toPeripheral := ws }.movePeripheral (.rxWord w)
  | .arriveAtMaster =>
    match j.toMaster with
    | [] => j
    | w :: ws => { j with toMaster := ws }.moveMaster (.rxWord w)
  | .master mv => if mv.isWord then j else j.moveMaster mv
  | .peripheral mv => if mv.isWord then j else j.movePeripheral mv

/-- A run of the joined system. -/
def Joined.run (j : Joined) (mvs : List JoinedMove) : Joined := mvs.foldl Joined.step j

/-! ### One transaction at a time -/

/-- One transaction: the master starts (R241), the peripheral hears the request, executes the frame (R210) and transmits (R129),
the master hears the response and completes (R130, R250), the peripheral hears the master's ACK (R273). -/
def transact (m p : State) : State × State :=
  let m1 := tryMove m .start
  let p1 := tryMove (tryMove (hear p (emittedSince m m1)) .frame) .transmit
  let m2 := hear m1 (emittedSince p p1)
  (m2, hear p1 (emittedSince m1 m2))

end Sys2Proof.Machine
end

