-- ==== Sys2Proof/Safety.lean ====
section
/-! DEFINITION. The terms claims are stated in: the shape of an answered frame, the command-by-state table of rule R214, the
MASTER's tables of rules R251, R253 and R272, the invariants of a session (rules R41, R232), of LINE and its slot (R29, R30, R68),
of a mirror and the transaction in flight (R34 to R37), and of a joined system (R274). The tables are written out from the spec
and use no function of the machine. -/

namespace Sys2Proof.Machine

/-! ### The frame step -/

/-- The frame step's guard holds for the owned address `a` with instance `i` (rule R210). -/
def HasFrame (s : State) (a : Addr5) (i : Instance) : Prop :=
  (∃ f, s.rxSlot = some (a, f)) ∧ s.instanceAt a = some i

/-- `s` after PROTO took the frame of address `a`, left the instance `i'`, answered `resp` and raised `errs`; an older response
still in `txSlot` is lost with E9 (rule R210). Every other field is as in `s`. -/
def answered (s : State) (a : Addr5) (i' : Instance) (resp : List Word9) (errs : List ErrorEvent) : State :=
  { s with
    rxSlot := none
    inst := updateAt a i' s.inst
    txSlot := some resp
    log := s.log ++ (errs ++ if s.txSlot.isSome then [.e9 .txSlot] else []) }

/-- `i` with the idle window restarted where rule R210 restarts it. -/
def windowRestarted (i : Instance) : Instance :=
  if i.st = .idle ∧ i.pend.sEnd = false ∧ i.pend.sCan = false then { i with idleArmed := true } else i

/-- The error of a notification to a host that has not read the previous one (rule R226). -/
def lostNotification (i : Instance) : List ErrorEvent := if i.outSlot.isSome then [.e9 .outSlot] else []

/-- The entries of rule R214's table that are not `OOS`. -/
def accepts (r : Instr) (i : Instance) : Bool :=
  match r, i.st with
  | .reset, _ => true
  | .poll, _ => true
  | .configData _ _ _ _, st => st == .inactive || st == .disabled
  | .maxMinPrices _ _, st => st == .disabled || st == .enabled
  | .vendRequest p n, st =>
    (st == .idle && !i.pend.sEnd) || (st == .vend && p == i.ctx.price && n == i.ctx.item)
  | .vendCancel, st => st == .idle || (st == .vend && !i.approvalSent)
  | .vendSuccess _, st => st == .idle || (st == .vend && i.approvalSent)
  | .vendFailure, st => st == .idle || st == .vend
  | .sessionComplete, st => st == .enabled || st == .idle || st == .vend
  | .cashSale _ _, st => st != .inactive
  | .readerDisable, st => st == .disabled || st == .enabled
  | .readerEnable, st => st == .disabled || st == .enabled
  | .readerCancel, st => st == .disabled || st == .enabled
  | .requestId _ _ _ _, st => st == .disabled || st == .enabled

/-! ### The tables of a MASTER -/

/-- The column `applicable(c, m)` of rule R272. -/
def commandApplies (c : HostCmd) (m : MInstance) : Bool :=
  match c with
  | .vendRequest _ _ => decide (m.mst = .idle ∧ m.endSt = .eNone)
  | .vendOutcome true => decide (m.mst = .vend ∧ m.approved = true)
  | .vendOutcome false => decide (m.mst = .vend)
  | .sessionComplete => decide ((m.mst = .idle ∨ m.mst = .vend) ∧ m.endSt ≠ .eSent)
  | .cashSale _ _ => decide (m.mst ≠ .inactive)
  | .readerDisable => decide (m.mst = .disabled ∨ m.mst = .enabled)
  | .readerEnable => decide (m.mst = .disabled ∨ m.mst = .enabled)
  | .readerCancel => decide (m.mst = .disabled ∨ m.mst = .enabled)

/-- The column `request(c)` of rule R272; `item` is the mirror's `m.item`. -/
def commandRequest (c : HostCmd) (item : U16) : Instr :=
  match c with
  | .vendRequest p n => .vendRequest p n
  | .vendOutcome true => .vendSuccess item
  | .vendOutcome false => .vendFailure
  | .sessionComplete => .sessionComplete
  | .cashSale p n => .cashSale p n
  | .readerDisable => .readerDisable
  | .readerEnable => .readerEnable
  | .readerCancel => .readerCancel

/-- The bytes of the events a POLL in H_RUN may answer with, and the mirror states they are expected in (rule R251). -/
def expectedEvent (m : MInstance) (r : List Byte) : Bool :=
  decide ((r = [0x00] ∨ r = [0x0B]) ∨
    (r.head? = some 0x03 ∧ r.length = 3 ∧ m.mst = .enabled) ∨
    (r.head? = some 0x05 ∧ r.length = 3 ∧ m.mst = .vend ∧ m.approved = false) ∨
    (r = [0x06] ∧ m.mst = .vend ∧ m.approved = false) ∨
    (r = [0x07] ∧ m.mst = .idle) ∨
    (r = [0x04] ∧ m.mst = .idle))

/-- The data responses the table of rule R251 expects. -/
def expectedData (req : Instr) (m : MInstance) (r : List Byte) : Bool :=
  match req with
  | .reset => false
  | .configData _ _ _ _ => decide (r.head? = some 0x01 ∧ r.length = 8)
  | .maxMinPrices _ _ => false
  | .poll => decide (m.hs = .hWaitJr ∧ r = [0x00]) || (decide (m.hs = .hRun) && expectedEvent m r)
  | .vendRequest _ _ => false
  | .vendCancel => false
  | .vendSuccess _ => false
  | .vendFailure => false
  | .sessionComplete => false
  | .cashSale _ _ => false
  | .readerDisable => false
  | .readerEnable => false
  | .readerCancel => decide (r = [0x08])
  | .requestId _ _ _ _ => decide (r.head? = some 0x09 ∧ r.length = 30)

/-- The requests and mirrors the table of rule R251 expects ACK of. -/
def expectedAck (req : Instr) (m : MInstance) : Bool :=
  match req with
  | .reset => true
  | .configData _ _ _ _ => false
  | .maxMinPrices _ _ => true
  | .poll => decide (m.hs = .hWaitJr ∨ m.hs = .hRun)
  | .vendRequest _ _ => true
  | .vendCancel => false
  | .vendSuccess _ => true
  | .vendFailure => true
  | .sessionComplete => true
  | .cashSale _ _ => true
  | .readerDisable => true
  | .readerEnable => true
  | .readerCancel => false
  | .requestId _ _ _ _ => false

/-- The table of rule R251: the responses `expected(req, m, class)` holds of. "Every other class is unexpected". -/
def expectedAnswer (req : Instr) (m : MInstance) (c : ResponseClass) : Bool :=
  match c with
  | .ack => expectedAck req m
  | .data r => expectedData req m r
  | .nak => false
  | .invalid => false
  | .noResponse => false

/-- A mirror at the start of the handshake step `hs` (rule R252): "`hostSlot` and `outSlot` are not touched". -/
def restartedAt (cfg : Config) (m : MInstance) (hs : HsStep) : MInstance :=
  { m with
    mst := .inactive, hs := hs, misses := 0
    pcfg := { scaleFactor := 1, decimalPlaces := 0, responseTimeout := cfg.tRespDefault, miscellaneousOptions := 0 }
    funds := 0, price := 0, item := 0, approved := false, endSt := .eNone }

/-- The mirror after a miss (rules R253, R255) and the errors of it: a POLL's counts, and at `MAX_POLL_MISSES` the peripheral is
offline; any other request changes nothing. -/
def missed (cfg : Config) (a : Addr5) (req : Instr) (m : MInstance) : MInstance × List ErrorEvent :=
  if req ≠ .poll then (m, [])
  else if m.misses + 1 < cfg.maxPollMisses then ({ m with misses := m.misses + 1 }, [])
  else
    ({ restartedAt cfg m .hReset with outSlot := some .peripheralOffline },
      .e7 a :: if m.outSlot.isSome then [.e9 .outSlot] else [])

/-! ### Which step is next -/

/-- The parameters are legal, the block has the role `role`, and `mv` is the next move (rules R9, R15, R230, R240). -/
def Offered (s : State) (role : Role) (mv : Move) (rest : List Move) : Prop :=
  configOk s.cfg = true ∧ s.cfg.role = role ∧ s.agenda = mv :: rest

/-- The next step is PROTO's frame step: it is at the head of `agenda`, or `agenda` is empty and the block makes it itself. -/
def FrameIsNext (s : State) : Prop :=
  s.agenda.head? = some .frame ∨ (s.agenda = [] ∧ idleMove s = some .frame)

/-! ### Session invariants -/

/-- Rule R41, clauses (a) to (h). -/
structure Rule41 (i : Instance) : Prop where
  notBoth : ¬ (i.pend.vApp = true ∧ i.pend.vDen = true)
  decidedInVend : i.pend.vApp = true ∨ i.pend.vDen = true → i.st = .vend
  sBegInEnabled : i.pend.sBeg = true → i.st = .enabled
  sCanInIdle : i.pend.sCan = true → i.st = .idle
  sEndInIdle : i.pend.sEnd = true → i.st = .idle
  approvalInVend : i.approvalSent = true → i.st = .vend
  vendArmedInVend : i.vendArmed = true → i.st = .vend
  idleArmedInIdle : i.idleArmed = true → i.st = .idle

/-- Rule R232, clauses (a) to (d). -/
structure Rule232 (i : Instance) : Prop where
  idleRuns : i.st = .idle → i.pend.sCan = false → i.pend.sEnd = false → i.idleArmed = true
  vendRuns : i.st = .vend → i.pend.vApp = false → i.pend.vDen = false → i.approvalSent = false → i.vendArmed = true
  sentDecided : i.approvalSent = true → i.pend.vApp = false ∧ i.pend.vDen = false ∧ i.vendArmed = false
  sBegEnabled : i.pend.sBeg = true → i.st = .enabled

/-- Rules R41 and R232 with the clause that makes them inductive: the vend window runs only while neither approval nor denial
is decided. Rule R229 says it: "The vend window runs from entry to VEND until the approval or denial is decided". -/
structure SessionInv (i : Instance) : Prop where
  rule41 : Rule41 i
  rule232 : Rule232 i
  windowUndecided : i.vendArmed = true → i.pend.vApp = false ∧ i.pend.vDen = false

/-- Every instance of the block meets the session invariants. -/
def SessionsOk (s : State) : Prop := ∀ p ∈ s.inst, SessionInv p.2

/-! ### The invariant of LINE, the tables and the hand-off slot -/

/-- The tables belong to the parameters and the role (rules R3, R21, R34, R310), and `turn` indexes `ADDRS` (R34). -/
structure TablesOk (s : State) : Prop where
  config : configOk s.cfg = true
  peripheral : s.cfg.role = .peripheral → s.inst.map Prod.fst = s.cfg.ownAddrs ∧ s.mirror = []
  master : s.cfg.role = .master → s.inst = [] ∧ s.mirror.map Prod.fst = s.cfg.addrs
  turn : s.turn < s.cfg.addrs.length

/-- What a partial frame is (rules R29, R68, R126): it starts with the address byte of an owned address; its length is unknown
only after the first byte of a command with sub-commands; once known it is the length of rule R84, not yet reached. -/
def RxOk (cfg : Config) : RxPhase → Prop
  | .idle => True
  | .skip => True
  | .collect a buf need =>
    a ∈ cfg.ownAddrs ∧ (buf.head?.map addressOf) = some a ∧
      match need with
      | none => ∃ b0, buf = [b0] ∧ commandOf (commandCode b0) ≠ none ∧ lengthFromCommand (commandCode b0) = none
      | some n => buf.length < n ∧ n ≤ 32 ∧
          ((∃ b0, buf = [b0] ∧ lengthFromCommand (commandCode b0) = some n) ∨
            (∃ b0 b1 rest, buf = b0 :: b1 :: rest ∧ lengthFromCommand (commandCode b0) = none ∧
              reqLen (commandCode b0) b1 = some n))

/-- What LINE hands over (rules R30, R127): a frame of an owned address that stands for a request. -/
def SlotOk (cfg : Config) (slot : Option (Addr5 × List Byte)) : Prop :=
  ∀ a f, slot = some (a, f) → a ∈ cfg.ownAddrs ∧ (f.head?.map addressOf) = some a ∧ ∃ r, decode f = .ok r

/-- The invariant of the tables, of LINE and of the hand-off slot. -/
structure LineInv (s : State) : Prop where
  tables : TablesOk s
  rx : RxOk s.cfg s.rx
  slot : SlotOk s.cfg s.rxSlot

/-! ### The invariant of a MASTER block -/

/-- The handshake steps before CONFIG_DATA is answered (rule R35). -/
def HsStep.unlearned (h : HsStep) : Bool := h == .hReset || h == .hWaitJr || h == .hConfig

/-- The invariant of a mirror (rules R34 to R36, R252, R257, R261 to R268). -/
structure MirrorInv (cfg : Config) (m : MInstance) : Prop where
  misses : m.misses ≤ cfg.maxPollMisses
  unlearned : m.hs.unlearned = true → m.mst = .inactive ∧ m.pcfg = defaultPcfg cfg
  handshake : m.hs.unlearned = false → m.hs ≠ .hRun → m.mst = .disabled
  running : m.hs = .hRun → m.mst ≠ .inactive
  approved : m.approved = true → m.mst = .vend
  ending : m.endSt ≠ .eNone → m.mst = .idle

/-- `req` is a request the mirror `m` of address `a` can have sent (rules R242, R272). -/
def Selectable (cfg : Config) (a : Addr5) (m : MInstance) (req : Instr) : Prop :=
  if m.hs = .hRun then
    req = .poll ∨ (m.endSt = .eOwed ∧ m.mst = .idle ∧ req = .sessionComplete) ∨
      ∃ c, commandApplies c m = true ∧ req = commandRequest c m.item
  else req = (selectRequest cfg a m).1

/-- The transaction in flight (rule R37): it goes to the address whose turn it is, its request was selectable, and the words
received so far are mode-clear and fewer than `MAX_RSP_LEN` (rules R68, R130). -/
def PhaseOk (s : State) : Prop :=
  ∀ a req buf, s.phase = .mAwait a req buf →
    s.turnAddress = some a ∧ (∀ m, s.mirrorAt a = some m → Selectable s.cfg a m req) ∧
      (∀ w ∈ buf, modeOf w = false) ∧ buf.length < s.cfg.maxRspLen

/-- The invariant of a MASTER block. -/
structure MasterInv (s : State) : Prop where
  tables : TablesOk s
  role : s.cfg.role = .master
  room : 0 < s.cfg.maxRspLen
  mirrors : ∀ p ∈ s.mirror, MirrorInv s.cfg p.2
  phase : PhaseOk s

/-! ### The joined system -/

/-- The states of the peripheral's session that go with a mirror on a perfect line (rule R274). -/
structure Linked (m : MInstance) (i : Instance) : Prop where
  state : m.mst = i.st
  noOos : i.pend.oos = false
  rstAck : m.hs ≠ .hReset → (i.pend.rstAck = true ↔ m.hs = .hWaitJr)
  approval : m.approved = i.approvalSent
  ended : i.pend.sEnd = true ↔ m.endSt = .eSent

/-- A MASTER and a PERIPHERAL joined at the one address `a`, between transactions (rule R274). `MAX_RSP_LEN` leaves room for the
longest response, 31 words (R68). -/
structure JoinedOk (a : Addr5) (m p : State) : Prop where
  masterRole : m.cfg.role = .master
  peripheralRole : p.cfg.role = .peripheral
  masterAddrs : m.cfg.addrs = [a]
  peripheralAddrs : p.cfg.ownAddrs = [a]
  room : 31 ≤ m.cfg.maxRspLen
  masterInv : MasterInv m
  lineInv : LineInv p
  sessions : SessionsOk p
  idle : m.phase = .mIdle
  quiet : betweenFrames p.rx = true ∧ p.rxSlot = none ∧ p.txSlot = none
  linked : ∃ mi pi, m.mirrorAt a = some mi ∧ p.instanceAt a = some pi ∧ Linked mi pi

/-- The words of the request `req` that follow its first `k`, after the address byte all mode-clear (rules R76, R124). -/
def wordsAfter (a : Addr5) (req : Instr) (k : Nat) : List Word9 := (encode a req).drop k

/-- What LINE has collected after the first `k` words of the request `req`, `0 < k` and not all of them (rules R29, R85, R126). -/
def collected (a : Addr5) (req : Instr) (k : Nat) : RxPhase :=
  .collect a ((requestBytes a req).take k) (if k = 1 ∧ lengthFromCommand (commandCode ((requestBytes a req).headD 0)) = none
    then none else some (encode a req).length)

/-- `resp` is a response the mirror `m` expects to `req`, and its effect keeps the link with the session `i` and a running
handshake running (rules R131, R250, R251). -/
def Answers (cfg : Config) (a : Addr5) (req : Instr) (m : MInstance) (i : Instance) (resp : List Word9) : Prop :=
  ∃ c, (resp = [0x100] ∧ c = .ack ∨ ∃ xs, xs ≠ [] ∧ xs.length ≤ 30 ∧ resp = frameP xs ∧ c = .data xs) ∧
    expectedAnswer req m c = true ∧ Linked (responseEffect cfg a req { m with misses := 0 } c).m i ∧
    (m.hs = .hRun → (responseEffect cfg a req { m with misses := 0 } c).m.hs = .hRun)

/-- Where a transaction of a joined system is, for the mirror `m` and the session `i` of its address `a`. -/
inductive Progress (a : Addr5) (j : Joined) (m : MInstance) (i : Instance) : Prop where
  /-- No transaction is open; the master's ACK to the last response may still be under way. -/
  | between (phase : j.master.phase = .mIdle) (rx : betweenFrames j.peripheral.rx = true) (slot : j.peripheral.rxSlot = none)
      (tx : j.peripheral.txSlot = none) (line : j.toPeripheral = [] ∨ j.toPeripheral = [0x000]) (back : j.toMaster = [])
      (link : Linked m i)
  /-- The whole request is under way, perhaps behind the master's last ACK. -/
  | requested (req : Instr) (phase : j.master.phase = .mAwait a req []) (encodes : req.WellFormed)
      (rx : betweenFrames j.peripheral.rx = true) (slot : j.peripheral.rxSlot = none) (tx : j.peripheral.txSlot = none)
      (line : j.toPeripheral = encode a req ∨ j.toPeripheral = 0x000 :: encode a req) (back : j.toMaster = [])
      (link : Linked m i)
  /-- The first `k` words of the request have arrived. -/
  | arriving (req : Instr) (k : Nat) (phase : j.master.phase = .mAwait a req []) (encodes : req.WellFormed) (some : 0 < k)
      (notAll : k < (encode a req).length) (rx : j.peripheral.rx = collected a req k) (slot : j.peripheral.rxSlot = none)
      (tx : j.peripheral.txSlot = none) (line : j.toPeripheral = wordsAfter a req k) (back : j.toMaster = [])
      (link : Linked m i)
  /-- The frame is handed to PROTO. -/
  | handed (req : Instr) (phase : j.master.phase = .mAwait a req []) (encodes : req.WellFormed)
      (rx : j.peripheral.rx = .idle) (slot : j.peripheral.rxSlot = some (a, requestBytes a req))
      (tx : j.peripheral.txSlot = none) (line : j.toPeripheral = []) (back : j.toMaster = []) (link : Linked m i)
  /-- The response waits in `txSlot`. -/
  | answered (req : Instr) (resp : List Word9) (phase : j.master.phase = .mAwait a req []) (rx : j.peripheral.rx = .idle)
      (slot : j.peripheral.rxSlot = none) (tx : j.peripheral.txSlot = some resp) (line : j.toPeripheral = [])
      (back : j.toMaster = []) (answers : Answers j.master.cfg a req m i resp)
  /-- The words `buf` of the response have arrived, the rest is under way. -/
  | returning (req : Instr) (buf : List Word9) (phase : j.master.phase = .mAwait a req buf) (rx : j.peripheral.rx = .idle)
      (slot : j.peripheral.rxSlot = none) (tx : j.peripheral.txSlot = none) (line : j.toPeripheral = [])
      (back : j.toMaster ≠ []) (answers : Answers j.master.cfg a req m i (buf ++ j.toMaster))

/-- A MASTER and a PERIPHERAL joined at the one address `a`, at any point of a transaction (rule R274). -/
structure JoinedInv (a : Addr5) (j : Joined) : Prop where
  masterRole : j.master.cfg.role = .master
  peripheralRole : j.peripheral.cfg.role = .peripheral
  masterAddrs : j.master.cfg.addrs = [a]
  peripheralAddrs : j.peripheral.cfg.ownAddrs = [a]
  room : 31 ≤ j.master.cfg.maxRspLen
  masterInv : MasterInv j.master
  lineInv : LineInv j.peripheral
  sessions : SessionsOk j.peripheral
  progress : ∃ m i, j.master.mirrorAt a = some m ∧ j.peripheral.instanceAt a = some i ∧ Progress a j m i

end Sys2Proof.Machine
end

