-- ==== Sys2Proof/Certificates/Slice0/Obligations.lean ====
section
/-! DEFINITION. The statements for the provers, from the numbered rules of spec/. `Offered s role mv rest` is the model's form of
'this step is taken next' of rule R15 (notes/assumptions/2.md): the statements hold for every `agenda` and every `rest` of one. -/

open Sys2Proof Sys2Proof.Machine

/-! ### Parameters and construction -/

/-- R9, R312: a model outside the constraints "is refused, not run"; one inside them is constructed. That both address lists are
checked whatever `ROLE` is, and that a string's length is the whole of its check, is the model's (notes/assumptions/5.md). -/
def Obligations.IllegalParametersAreRefused : Prop :=
  ∀ cfg : Config,
    let legal := (cfg.ownAddrs ≠ [] ∧ cfg.ownAddrs.Nodup ∧ 0 ∉ cfg.ownAddrs) ∧
      (cfg.addrs ≠ [] ∧ cfg.addrs.Nodup ∧ 0 ∉ cfg.addrs) ∧ cfg.capScale ≠ 0 ∧
      cfg.idMfr.length = 3 ∧ cfg.idSerial.length = 12 ∧ cfg.idModel.length = 12 ∧ cfg.idSwver.length = 2 ∧
      cfg.vmcId.length = 29
    (legal → instantiate cfg = .next (State.construct cfg)) ∧
      (¬ legal → instantiate cfg = .refused .invalidParameters ∧
        ∀ s : State, s.cfg = cfg → step s = .refused .invalidParameters)

/-- R42: every field of a PERIPHERAL block after construction. -/
def Obligations.PeripheralAfterConstruction : Prop :=
  ∀ cfg : Config, cfg.role = .peripheral →
    let s := State.construct cfg
    s.inst.map Prod.fst = cfg.ownAddrs ∧
      (∀ a ∈ cfg.ownAddrs, s.instanceAt a = some
        { st := .inactive
          pend := { oos := false, rstAck := true, vApp := false, vDen := false, sEnd := false, sBeg := false,
                    sCan := false }
          ctx := { funds := 0, price := 0, item := 0 }
          approvalSent := false, idleArmed := false, vendArmed := false, inq := none, outSlot := none }) ∧
      s.rx = .idle ∧ s.rxSlot = none ∧ s.txSlot = none ∧ s.out = []

/-- R43: every field of a MASTER block after construction. -/
def Obligations.MasterAfterConstruction : Prop :=
  ∀ cfg : Config, cfg.role = .master →
    let s := State.construct cfg
    s.mirror.map Prod.fst = cfg.addrs ∧
      (∀ a ∈ cfg.addrs, s.mirrorAt a = some
        { mst := .inactive, hs := .hReset, misses := 0
          pcfg := { scaleFactor := 1, decimalPlaces := 0, responseTimeout := cfg.tRespDefault,
                    miscellaneousOptions := 0 }
          funds := 0, price := 0, item := 0, approved := false, endSt := .eNone, hostSlot := none,
          outSlot := none }) ∧
      s.turn = 0 ∧ s.phase = .mIdle

/-- The invariants hold of every block that legal parameters construct, the reset state among them, whose parameters are the
model's choice (notes/assumptions/1.md); a MASTER and a PERIPHERAL, constructed and joined, meet the link, which is the model's
(notes/assumptions/12.md). -/
def Obligations.ConstructionMeetsTheInvariants : Prop :=
  (∀ cfg : Config, configOk cfg = true → cfg.role = .peripheral →
      LineInv (State.construct cfg) ∧ SessionsOk (State.construct cfg)) ∧
    (∀ cfg : Config, configOk cfg = true → cfg.role = .master → 0 < cfg.maxRspLen →
      MasterInv (State.construct cfg)) ∧
    (LineInv State.reset ∧ SessionsOk State.reset) ∧
    ∀ (a : Addr5) (cm cp : Config), configOk cm = true → configOk cp = true → cm.role = .master →
      cp.role = .peripheral → cm.addrs = [a] → cp.ownAddrs = [a] → 31 ≤ cm.maxRspLen →
      JoinedOk a (State.construct cm) (State.construct cp)

/-! ### Invariants every step keeps -/

/-- R41, R232: the session invariants hold after every step that starts from them, whatever move it takes. -/
def Obligations.EveryStepKeepsTheSessionInvariants : Prop :=
  ∀ s t : State, SessionsOk s → step s = .next t → SessionsOk t

/-- R29, R30, R68: tables, partial frame and hand-off slot keep their invariant. -/
def Obligations.EveryStepKeepsTheLineInvariant : Prop :=
  ∀ s t : State, LineInv s → step s = .next t → LineInv t

/-- R34 to R37: the mirrors and the transaction in flight keep their invariant. -/
def Obligations.EveryStepKeepsTheMasterInvariant : Prop :=
  ∀ s t : State, MasterInv s → step s = .next t → MasterInv t

/-- R230, R282: "No step can fail, fault or get stuck". -/
def Obligations.NoStepFailsUnderTheInvariants : Prop :=
  ∀ s : State, (LineInv s ∨ MasterInv s) → ∃ t, step s = .next t

/-- R40: the parameters and constant records are written by nobody, and the observations of R231 and R275 only grow; that they
are fields of State is the model's (notes/assumptions/9.md). -/
def Obligations.ParametersStayAndObservationsGrow : Prop :=
  ∀ s t : State, step s = .next t →
    t.cfg = s.cfg ∧ s.out <+: t.out ∧ s.log <+: t.log ∧ s.seen <+: t.seen ∧ s.results <+: t.results

/-! ### Encoding -/

/-- R72, R77, R78, R82: decoding the bytes of a well-formed request gives it back, and its first byte holds the address. -/
def Obligations.DecodeGivesBackTheEncodedRequest : Prop :=
  ∀ (a : Addr5) (r : Instr), r.WellFormed →
    decode (requestBytes a r) = .ok r ∧ (requestBytes a r).head?.map addressOf = some a

/-- The other direction: a frame that decodes is the encoding of what it decodes to, at the address in its first byte. -/
def Obligations.DecodedFramesAreEncodings : Prop :=
  ∀ (b0 : Byte) (rest : List Byte) (r : Instr), decode (b0 :: rest) = .ok r →
    r.WellFormed ∧ b0 :: rest = requestBytes (addressOf b0) r ∧
      (b0 :: rest).length + 1 = kindLength r.kind

/-- R90: exactly the unassigned codes select no kind, and no frame with one decodes. -/
def Obligations.UnassignedEncodingsSelectNoKind : Prop :=
  ∀ (b0 sub : Byte) (rest : List Byte),
    let c := commandCode b0
    let unassigned := c = 5 ∨ c = 6 ∨ (c = 1 ∧ 0x02 ≤ sub) ∨ (c = 3 ∧ 0x06 ≤ sub) ∨ (c = 4 ∧ 0x03 ≤ sub) ∨
      (c = 7 ∧ 0x01 ≤ sub)
    (reqLen c sub = none ↔ unassigned) ∧ (unassigned → ∀ r, decode (b0 :: sub :: rest) ≠ .ok r)

/-- R76, R126, R127: LINE, whatever frame it was in, delivers an encoded request whole and nothing else changes. -/
def Obligations.LineDeliversAnEncodedRequest : Prop :=
  ∀ (s : State) (a : Addr5) (r : Instr), a ∈ s.cfg.ownAddrs → r.WellFormed →
    (encode a r).foldl receiveWord s =
      { s with
        rx := .idle
        rxSlot := some (a, requestBytes a r)
        log := s.log ++ (truncationEvent s.rx ++ if s.rxSlot.isSome then [.e9 .rxSlot] else []) }

/-- R71 to R78: a few requests of 95_test_vectors.md section 0, written out in bytes. -/
def Obligations.SampleFramesDecode : Prop :=
  decode [0x10] = .ok .reset ∧
    decode [0x11, 0x00, 0x01, 0x00, 0x00, 0x00] = .ok (.configData 1 0 0 0) ∧
    decode [0x12] = .ok .poll ∧
    decode [0x13, 0x00, 0x00, 0x96, 0x00, 0x03] = .ok (.vendRequest 150 3) ∧
    decode [0x14, 0x01] = .ok .readerEnable ∧
    encode 0x02 (.vendSuccess 3) = [0x113, 0x002, 0x000, 0x003, 0x018]

/-! ### Checksums, responses and the line -/

/-- R132: a frame with one byte changed, its length kept, is not checksum-valid. -/
def Obligations.OneChangedByteFailsTheChecksum : Prop :=
  ∀ (f : List Byte) (k : Nat) (v : Byte), checksumValid f = true → k < f.length → f[k]? ≠ some v →
    checksumValid (f.set k v) = false

/-- R133: two changes whose sum is 0 modulo 256 leave a frame checksum-valid. -/
def Obligations.CompensatingChangesPassTheChecksum : Prop :=
  ∀ (xs ys zs : List Byte) (x y d c : Byte), checksumValid (xs ++ x :: ys ++ y :: zs ++ [c]) = true →
    checksumValid (xs ++ (x + d) :: ys ++ (y - d) :: zs ++ [c]) = true

/-- R76, R123, R131: a response is mode-clear but for its checksum word, and the master reads its bytes back from it. -/
def Obligations.ResponsesAreReadBack : Prop :=
  ∀ xs : List Byte, xs ≠ [] →
    (frameP xs).map modeOf = List.replicate xs.length false ++ [true] ∧
      (frameP xs).map dataOf = xs ++ [sum8 xs] ∧ classify (frameP xs) = (.data xs, [])

/-- R103, R104: the bit-banged receiver reads the word the transmitter sent after any idle time, whatever follows. The line as
levels over half bit times is the model's (notes/assumptions/11.md). -/
def Obligations.BitbangReceivesWhatWasSent : Prop :=
  ∀ (w : Word9) (n : Nat) (rest : List Bool),
    receiveBitbang true (List.replicate n true ++ (sendBitbang w ++ rest)) = some (w, modeOf w :: true :: true :: rest)

/-- R106 to R108: both links put the same waveform on the line for any sequence of words and read the same word from the same
line, whatever is on it and whatever setting the UART has; and a UART gives each word back from its byte and parity-error
indication. Half bit times, and that a UART samples where the bit-banged receiver does, are the model's
(notes/assumptions/11.md). -/
def Obligations.LinkFormsAgree : Prop :=
  (∀ (ws : List Word9) (markSpace : Bool),
      ws.flatMap (sendWord9 .parityUart markSpace) = ws.flatMap (sendWord9 .bitbang markSpace)) ∧
    (∀ (p : UartParity) (before : Bool) (line : List Bool),
      receiveWord9 .parityUart p before line = receiveWord9 .bitbang p before line) ∧
    ∀ (w : Word9) (p : UartParity), receiveUart p (dataOf w) (parityError p w) = w

/-! ### LINE -/

/-- R126, R287 (c): a mode-flagged word starts a frame; the address decides first, then the command code. -/
def Obligations.ModeFlaggedWordStartsAFrame : Prop :=
  ∀ (s : State) (d : Byte) (rest : List Move), Offered s .peripheral (.rxWord (mkWord true d)) rest →
    let truncated := match s.rx with
      | .collect _ _ _ => [ErrorEvent.e1 .truncated]
      | _ => []
    let c := commandCode d
    step s = .next
      (if addressOf d ∉ s.cfg.ownAddrs then
        { s with agenda := rest, rx := .skip, log := s.log ++ (truncated ++ [.e2 (addressOf d)]) }
      else if c = 5 ∨ c = 6 then
        { s with agenda := rest, rx := .skip, log := s.log ++ (truncated ++ [.e6 d none]) }
      else if c = 0 ∨ c = 2 then
        { s with agenda := rest, rx := .collect (addressOf d) [d] (some 2), log := s.log ++ truncated }
      else
        { s with agenda := rest, rx := .collect (addressOf d) [d] none, log := s.log ++ truncated })

/-- R126, R127: a mode-clear word is ignored outside a frame; inside one it selects the length, extends the frame, or completes
it, and then the checksum decides between delivery and E1. -/
def Obligations.ModeClearWordExtendsTheFrame : Prop :=
  ∀ (s : State) (d : Byte) (rest : List Move), Offered s .peripheral (.rxWord (mkWord false d)) rest →
    ((s.rx = .idle ∨ s.rx = .skip) → step s = .next { s with agenda := rest }) ∧
      (∀ a b0, s.rx = .collect a [b0] none → reqLen (commandCode b0) d = none →
        step s = .next { s with agenda := rest, rx := .skip, log := s.log ++ [.e6 b0 (some d)] }) ∧
      (∀ a buf need n, s.rx = .collect a buf need →
        (need = some n ∨ need = none ∧ ∃ b0, buf = [b0] ∧ reqLen (commandCode b0) d = some n) →
        step s = .next
          (if buf.length + 1 < n then { s with agenda := rest, rx := .collect a (buf ++ [d]) (some n) }
          else if checksumValid (buf ++ [d]) then
            { s with
              agenda := rest
              rx := .idle
              rxSlot := some (a, (buf ++ [d]).take (n - 1))
              log := s.log ++ if s.rxSlot.isSome then [.e9 .rxSlot] else [] }
          else { s with agenda := rest, rx := .idle, log := s.log ++ [.e1 .checksum] }))

/-- R58, R113, R127: a received word changes only the assembler, the hand-off slot and the log of a PERIPHERAL. -/
def Obligations.ReceivedWordsTouchNoSession : Prop :=
  ∀ (s : State) (w : Word9) (rest : List Move), Offered s .peripheral (.rxWord w) rest →
    ∃ t, step s = .next t ∧ t = { s with agenda := rest, rx := t.rx, rxSlot := t.rxSlot, log := t.log } ∧
      s.log <+: t.log ∧ (t.rxSlot ≠ s.rxSlot → t.rx = .idle)

/-- R129: the whole response goes out in one step, and only between frames; that the move does nothing where its guard fails is
the model's (notes/assumptions/10.md). -/
def Obligations.TransmitSendsTheWholeResponse : Prop :=
  ∀ (s : State) (rest : List Move), Offered s .peripheral .transmit rest →
    (∀ ws, s.txSlot = some ws → (s.rx = .idle ∨ s.rx = .skip) →
      step s = .next { s with agenda := rest, txSlot := none, out := s.out ++ ws }) ∧
    (s.txSlot = none ∨ (∃ a buf need, s.rx = .collect a buf need) → step s = .next { s with agenda := rest })

/-- R225: "PROTO writes `txSlot` only in the frame step", and a PERIPHERAL's words leave it only from `txSlot`. -/
def Obligations.NoUnsolicitedTransmission : Prop :=
  ∀ s t : State, step s = .next t →
    (∀ ws, t.txSlot = some ws → s.txSlot ≠ some ws → FrameIsNext s ∧ s.rxSlot ≠ none) ∧
      (s.cfg.role = .peripheral → t.out ≠ s.out → ∃ ws, s.txSlot = some ws ∧ t.txSlot = none ∧ t.out = s.out ++ ws)

/-! ### PROTO: fetch, dispatch and frames -/

/-- R210, R211: the frame step of a PERIPHERAL runs the request the frame in `rxSlot` stands for. -/
def Obligations.FrameStepRunsTheDecodedRequest : Prop :=
  ∀ (s : State) (a : Addr5) (f : List Byte) (r : Instr) (rest : List Move),
    Offered s .peripheral .frame rest → s.rxSlot = some (a, f) → decode f = .ok r →
    step s = exec r { s with agenda := rest }

/-- R194: PROTO handed a frame with an unassigned code "must fault, not answer". That it faults on an empty frame and on one of the
wrong length for its kind too is the model's choice (notes/assumptions/13.md). -/
def Obligations.UnassignedFrameFaults : Prop :=
  ∀ (s : State) (a : Addr5) (f : List Byte) (why : DecodeError) (rest : List Move),
    Offered s .peripheral .frame rest → s.rxSlot = some (a, f) → decode f = .error why →
    step s = .fault (.unassignedFrame why)

/-- The frame of every request: it runs to a next state, takes the frame, and changes nothing but the addressed instance, the
hand-off slots and the log; `inq` of that instance is kept. Without a frame, or with one for an address not owned, this is the
model's (notes/assumptions/6.md). -/
def Obligations.RequestsChangeOnlyTheAddressedSession : Prop :=
  ∀ (r : Instr) (s : State), ∃ t, exec r s = .next t ∧
    t = { s with inst := t.inst, rxSlot := none, txSlot := t.txSlot, log := t.log } ∧ s.log <+: t.log ∧
      t.inst.map Prod.fst = s.inst.map Prod.fst ∧
      (∀ b, (∀ f, s.rxSlot ≠ some (b, f)) → t.instanceAt b = s.instanceAt b) ∧
      (∀ b, (t.instanceAt b).map Instance.inq = (s.instanceAt b).map Instance.inq)

/-- R212, R214: a request in a state whose entry of the table is OOS sets `oos`, raises E3, answers ACK and keeps the rest. -/
def Obligations.RefusedRequestsAreOutOfSequence : Prop :=
  ∀ (r : Instr) (s : State) (a : Addr5) (i : Instance), HasFrame s a i → accepts r i = false →
    exec r s = .next (answered s a { i with pend := { i.pend with oos := true } } [0x100] [.e3 r.kind i.st])

/-- R216: every request but POLL, delivered twice in a row, is answered alike and the second changes no session. -/
def Obligations.RetransmissionChangesNothing : Prop :=
  ∀ (r : Instr) (s t : State) (a : Addr5) (f : List Byte), r ≠ .poll → s.rxSlot = some (a, f) →
    s.instanceAt a ≠ none → exec r s = .next t →
    ∃ u, exec r { t with rxSlot := s.rxSlot } = .next u ∧ u.txSlot = t.txSlot ∧ u.inst = t.inst

/-- R215: without `OOS_TO_INACTIVE`, only a RESET frame brings an instance to INACTIVE. -/
def Obligations.OnlyResetYieldsInactive : Prop :=
  ∀ (s t : State) (a : Addr5) (i j : Instance), s.cfg.oosToInactive = false → step s = .next t →
    s.instanceAt a = some i → i.st ≠ .inactive → t.instanceAt a = some j → j.st = .inactive →
    FrameIsNext s ∧ ∃ f, s.rxSlot = some (a, f) ∧ decode f = .ok .reset

/-! ### RESET, SETUP and POLL -/

/-- R150, R151. -/
def Obligations.ResetClearsTheSession : Prop :=
  ∀ (s : State) (a : Addr5) (i : Instance), HasFrame s a i →
    let sale := i.st = .vend ∧ i.approvalSent = true
    exec .reset s = .next (answered s a
      { st := .inactive
        pend := { oos := false, rstAck := true, vApp := false, vDen := false, sEnd := false, sBeg := false,
                  sCan := false }
        ctx := { funds := 0, price := 0, item := 0 }
        approvalSent := false, idleArmed := false, vendArmed := false
        inq := i.inq
        outSlot := if sale then some (.saleCompleted i.ctx.price i.ctx.item) else i.outSlot }
      [0x100] (if sale then lostNotification i else []))

/-- R152, R88: CONFIG_DATA answers the capability record and leads to DISABLED. -/
def Obligations.ConfigDataAnswersTheCapabilityRecord : Prop :=
  ∀ (fl cols rows info : Byte) (s : State) (a : Addr5) (i : Instance), HasFrame s a i →
    i.st = .inactive ∨ i.st = .disabled →
    exec (.configData fl cols rows info) s = .next (answered s a { i with st := .disabled }
      (frameP [0x01, s.cfg.capFeatureLevel, hi8 s.cfg.capCountry, lo8 s.cfg.capCountry, s.cfg.capScale,
        s.cfg.capDecimals, s.cfg.capMaxResp, s.cfg.capOptions]) [])

/-- R153, R175: MAX_MIN_PRICES and CASH_SALE, where accepted, are acknowledged without effect on the session, but that an
accepted command restarts the idle window (R210). -/
def Obligations.PricesAndCashSalesAreAcknowledged : Prop :=
  ∀ (s : State) (a : Addr5) (i : Instance), HasFrame s a i →
    (∀ mx mn, i.st = .disabled ∨ i.st = .enabled →
      exec (.maxMinPrices mx mn) s = .next (answered s a i [0x100] [])) ∧
    (∀ p n, i.st ≠ .inactive → exec (.cashSale p n) s = .next (answered s a (windowRestarted i) [0x100] []))

/-- R160 to R162, R168: POLL reports out-of-sequence before everything, then reset-acknowledge, and ACK when nothing is
pending; the state stays, unless `OOS_TO_INACTIVE`. -/
def Obligations.PollReportsSequenceAndReset : Prop :=
  ∀ (s : State) (a : Addr5) (i : Instance), HasFrame s a i →
    (i.pend.oos = true → s.cfg.oosToInactive = false →
      exec .poll s = .next (answered s a { i with pend := { i.pend with oos := false } } [0x00B, 0x10B] [])) ∧
    (i.pend.oos = true → s.cfg.oosToInactive = true →
      exec .poll s = .next (answered s a
        { i with
          st := .inactive
          pend := { oos := false, rstAck := false, vApp := false, vDen := false, sEnd := false, sBeg := false,
                    sCan := false }
          ctx := { funds := 0, price := 0, item := 0 }
          approvalSent := false, idleArmed := false, vendArmed := false } [0x00B, 0x10B] [])) ∧
    (i.pend.oos = false → i.pend.rstAck = true →
      exec .poll s = .next (answered s a { i with pend := { i.pend with rstAck := false } } [0x000, 0x100] [])) ∧
    (i.pend = { oos := false, rstAck := false, vApp := false, vDen := false, sEnd := false, sBeg := false,
                sCan := false } →
      exec .poll s = .next (answered s a i [0x100] []))

/-- R160, R163, R164: POLL reports the approval with the price and stays in VEND, or the denial and goes to IDLE. -/
def Obligations.PollReportsTheVendDecision : Prop :=
  ∀ (s : State) (a : Addr5) (i : Instance), HasFrame s a i → SessionInv i → i.pend.oos = false →
    i.pend.rstAck = false →
    (i.pend.vApp = true →
      exec .poll s = .next (answered s a
        { i with pend := { i.pend with vApp := false }, approvalSent := true, vendArmed := false }
        (frameP [0x05, hi8 i.ctx.price, lo8 i.ctx.price]) [])) ∧
    (i.pend.vDen = true →
      exec .poll s = .next (answered s a
        { i with st := .idle, pend := { i.pend with vDen := false }, vendArmed := false, idleArmed := true }
        [0x006, 0x106] []))

/-- R160, R165 to R167: POLL reports session-end, then session-begin, then session-cancel. -/
def Obligations.PollReportsSessionEvents : Prop :=
  ∀ (s : State) (a : Addr5) (i : Instance), HasFrame s a i → SessionInv i → i.pend.oos = false →
    i.pend.rstAck = false → i.pend.vApp = false → i.pend.vDen = false →
    (i.pend.sEnd = true →
      exec .poll s = .next (answered s a
        { i with
          st := .enabled
          pend := { i.pend with sEnd := false, sCan := false }
          ctx := { funds := 0, price := 0, item := 0 }
          idleArmed := false
          outSlot := some .sessionEnded }
        [0x007, 0x107] (lostNotification i))) ∧
    (i.pend.sBeg = true →
      exec .poll s = .next (answered s a
        { i with st := .idle, pend := { i.pend with sBeg := false }, idleArmed := true }
        (frameP [0x03, hi8 i.ctx.funds, lo8 i.ctx.funds]) [])) ∧
    (i.pend.sEnd = false → i.pend.sCan = true →
      exec .poll s = .next (answered s a { i with pend := { i.pend with sCan := false }, idleArmed := true }
        [0x004, 0x104] []))

/-! ### VEND -/

/-- R170, R176: VEND_REQUEST in IDLE opens a vend and, under `AUTO_APPROVE`, decides it by `price <= funds`. -/
def Obligations.VendRequestOpensAVend : Prop :=
  ∀ (price item : U16) (s : State) (a : Addr5) (i : Instance), HasFrame s a i → i.st = .idle →
    i.pend.sEnd = false →
    let auto := s.cfg.autoApprove
    let approve := price.toNat ≤ i.ctx.funds.toNat
    exec (.vendRequest price item) s = .next (answered s a
      { i with
        st := .vend
        ctx := { funds := i.ctx.funds, price := price, item := item }
        pend := { i.pend with
          sCan := false
          vApp := if auto = true ∧ approve then true else i.pend.vApp
          vDen := if auto = true ∧ ¬ approve then true else i.pend.vDen }
        idleArmed := false
        vendArmed := !auto }
      [0x100] [])

/-- R171: VEND_CANCEL before the approval is transmitted withdraws it and denies. -/
def Obligations.VendCancelDeniesTheVend : Prop :=
  ∀ (s : State) (a : Addr5) (i : Instance), HasFrame s a i → i.st = .vend → i.approvalSent = false →
    exec .vendCancel s = .next (answered s a
      { i with pend := { i.pend with vApp := false, vDen := true }, vendArmed := false } [0x100] [])

/-- R172, R173: the outcome ends the vend in IDLE; VEND_SUCCESS after a transmitted approval notifies the sale, VEND_FAILURE
notifies nothing. -/
def Obligations.VendOutcomeEndsTheVend : Prop :=
  ∀ (s : State) (a : Addr5) (i : Instance), HasFrame s a i → i.st = .vend →
    let ended : Instance :=
      { i with
        st := .idle
        pend := { i.pend with vApp := false, vDen := false }
        approvalSent := false, vendArmed := false, idleArmed := true }
    (∀ n, i.approvalSent = true →
      exec (.vendSuccess n) s = .next (answered s a
        { ended with outSlot := some (.saleCompleted i.ctx.price i.ctx.item) } [0x100] (lostNotification i))) ∧
    exec .vendFailure s = .next (answered s a ended [0x100] [])

/-- R174: SESSION_COMPLETE in IDLE or VEND leads to IDLE with the session end pending and the idle window stopped. -/
def Obligations.SessionCompleteOwesTheEnd : Prop :=
  ∀ (s : State) (a : Addr5) (i : Instance), HasFrame s a i →
    (i.st = .idle →
      exec .sessionComplete s = .next (answered s a
        { i with pend := { i.pend with sCan := false, sEnd := true }, idleArmed := false } [0x100] [])) ∧
    (i.st = .vend →
      exec .sessionComplete s = .next (answered s a
        { i with
          st := .idle
          pend := { i.pend with vApp := false, vDen := false, sCan := false, sEnd := true }
          approvalSent := false, vendArmed := false, idleArmed := false } [0x100] []))

/-- R170 to R174: a repeated command of the VEND family is acknowledged without effect, but for the idle window (R210). -/
def Obligations.RepeatedVendCommandsAreAcknowledged : Prop :=
  ∀ (s : State) (a : Addr5) (i : Instance), HasFrame s a i →
    (i.st = .vend → exec (.vendRequest i.ctx.price i.ctx.item) s = .next (answered s a i [0x100] [])) ∧
    (i.st = .idle →
      exec .vendCancel s = .next (answered s a (windowRestarted i) [0x100] []) ∧
      (∀ n, exec (.vendSuccess n) s = .next (answered s a (windowRestarted i) [0x100] [])) ∧
      exec .vendFailure s = .next (answered s a (windowRestarted i) [0x100] [])) ∧
    (i.st = .enabled → exec .sessionComplete s = .next (answered s a i [0x100] []))

/-! ### READER and EXPANSION -/

/-- R190, R191: READER/DISABLE and READER/ENABLE between DISABLED and ENABLED; leaving ENABLED withdraws `sBeg`. -/
def Obligations.ReaderCommandsSwitchTheReader : Prop :=
  ∀ (s : State) (a : Addr5) (i : Instance), HasFrame s a i →
    (i.st = .enabled →
      exec .readerDisable s = .next (answered s a
        { i with st := .disabled, pend := { i.pend with sBeg := false } } [0x100] []) ∧
      exec .readerEnable s = .next (answered s a i [0x100] [])) ∧
    (i.st = .disabled →
      exec .readerDisable s = .next (answered s a i [0x100] []) ∧
      exec .readerEnable s = .next (answered s a { i with st := .enabled } [0x100] []))

/-- R192: READER/CANCEL withdraws a session not yet begun and answers CANCELLED. -/
def Obligations.ReaderCancelWithdrawsTheSession : Prop :=
  ∀ (s : State) (a : Addr5) (i : Instance), HasFrame s a i → i.st = .disabled ∨ i.st = .enabled →
    exec .readerCancel s = .next (answered s a { i with pend := { i.pend with sBeg := false } } [0x008, 0x108] [])

/-- R193, R89: REQUEST_ID answers the identification record. -/
def Obligations.RequestIdAnswersTheIdentificationRecord : Prop :=
  ∀ (mfr serial model sw : List Byte) (s : State) (a : Addr5) (i : Instance), HasFrame s a i →
    i.st = .disabled ∨ i.st = .enabled →
    exec (.requestId mfr serial model sw) s = .next (answered s a i
      (frameP ([0x09] ++ s.cfg.idMfr ++ s.cfg.idSerial ++ s.cfg.idModel ++ s.cfg.idSwver)) [])

/-! ### The host and the timers of a PERIPHERAL -/

/-- R217, R219: a host call is queued, or dropped with E5 where one is already queued. -/
def Obligations.HostCallIsQueuedOrDropped : Prop :=
  ∀ (s : State) (a : Addr5) (i : Instance) (c : InboundCall) (rest : List Move),
    Offered s .peripheral (.hostCall a c) rest → s.instanceAt a = some i →
    step s = .next
      (if i.inq = none then
        { s with
          agenda := rest
          inst := updateAt a { i with inq := some c } s.inst
          results := s.results ++ [(a, .accepted)] }
      else { s with agenda := rest, log := s.log ++ [.e5 a c], results := s.results ++ [(a, .dropped)] })

/-- R220 to R224: the consume step empties the queue and applies the call, or ignores it with E10. That E10 holds the call with its
argument is the model's choice (notes/assumptions/7.md). -/
def Obligations.ConsumeAppliesTheCall : Prop :=
  ∀ (s : State) (a : Addr5) (i : Instance) (c : InboundCall) (rest : List Move),
    Offered s .peripheral (.consume a) rest → s.instanceAt a = some i → i.inq = some c →
    let taken := { i with inq := none }
    let undecided := i.st = .vend ∧ i.pend.vApp = false ∧ i.pend.vDen = false ∧ i.approvalSent = false
    let applied (j : Instance) := Host.Outcome.next (ρ := Refusal) (φ := Fault)
      { s with agenda := rest, inst := updateAt a j s.inst }
    let ignored := Host.Outcome.next (ρ := Refusal) (φ := Fault)
      { s with agenda := rest, inst := updateAt a taken s.inst, log := s.log ++ [.e10 c i.st] }
    step s = match c with
      | .requestSession f =>
        if i.st = .enabled ∧ i.pend.sBeg = false then
          applied { taken with ctx := { i.ctx with funds := f }, pend := { i.pend with sBeg := true } }
        else ignored
      | .approveVend =>
        if undecided then applied { taken with pend := { i.pend with vApp := true }, vendArmed := false }
        else ignored
      | .denyVend =>
        if undecided then applied { taken with pend := { i.pend with vDen := true }, vendArmed := false }
        else ignored
      | .cancelSession =>
        if i.st = .idle ∧ i.pend.sEnd = false then
          applied { taken with pend := { i.pend with sCan := true }, idleArmed := false }
        else if i.st = .enabled then applied { taken with pend := { i.pend with sBeg := false } }
        else ignored

/-- R228, R229: the session timeouts; that the move does nothing where its window is not running is the model's
(notes/assumptions/10.md). -/
def Obligations.SessionTimeoutsRaiseTheirFlag : Prop :=
  ∀ (s : State) (a : Addr5) (i : Instance) (rest : List Move), s.instanceAt a = some i →
    (Offered s .peripheral (.idleTimeout a) rest →
      step s = .next (if i.idleArmed = true ∧ i.st = .idle then
        { s with
          agenda := rest
          inst := updateAt a { i with pend := { i.pend with sCan := true }, idleArmed := false } s.inst }
        else { s with agenda := rest })) ∧
    (Offered s .peripheral (.vendTimeout a) rest →
      step s = .next (if i.vendArmed = true ∧ i.st = .vend then
        { s with
          agenda := rest
          inst := updateAt a { i with pend := { i.pend with vDen := true }, vendArmed := false } s.inst }
        else { s with agenda := rest }))

/-- R227, R271: the host reads a notification once, tagged with its address, in either variant. -/
def Obligations.HostReadsANotificationOnce : Prop :=
  ∀ (s : State) (a : Addr5) (rest : List Move),
    (∀ i n, Offered s .peripheral (.hostRead a) rest → s.instanceAt a = some i → i.outSlot = some n →
      step s = .next { s with
        agenda := rest
        inst := updateAt a { i with outSlot := none } s.inst
        seen := s.seen ++ [.peripheral a n] }) ∧
    (∀ m n, Offered s .master (.hostRead a) rest → s.mirrorAt a = some m → m.outSlot = some n →
      step s = .next { s with
        agenda := rest
        mirror := updateAt a { m with outSlot := none } s.mirror
        seen := s.seen ++ [.master a n] })

/-! ### MSEQ -/

/-- R241, R242, R272: a transaction starts with the request of the handshake step; in H_RUN with the owed SESSION_COMPLETE, else an
applicable host command's request, else POLL, an inapplicable command being removed with E10. That E10 holds the address, the
command and the mirror's state is the model's reading of R242 and R281 (notes/assumptions/7.md). -/
def Obligations.MasterStartsTheSelectedRequest : Prop :=
  ∀ (s : State) (a : Addr5) (m : MInstance) (rest : List Move), Offered s .master .start rest →
    s.phase = .mIdle → s.cfg.addrs[s.turn]? = some a → s.mirrorAt a = some m →
    let sends (r : Instr) := Host.Outcome.next (ρ := Refusal) (φ := Fault)
      { s with agenda := rest, mirror := updateAt a m s.mirror, out := s.out ++ encode a r, phase := .mAwait a r [] }
    let v := s.cfg.vmcConfig
    let id := s.cfg.vmcId
    step s = match m.hs with
      | .hReset => sends .reset
      | .hWaitJr => sends .poll
      | .hConfig => sends (.configData v.featureLevel v.displayColumns v.displayRows v.displayInfo)
      | .hMaxMin => sends (.maxMinPrices s.cfg.vmcMaxPrice s.cfg.vmcMinPrice)
      | .hExpId => sends (.requestId (id.take 3) ((id.drop 3).take 12) ((id.drop 15).take 12) (id.drop 27))
      | .hEnable => sends .readerEnable
      | .hRun =>
        if m.endSt = .eOwed ∧ m.mst = .idle then sends .sessionComplete
        else match m.hostSlot with
          | none => sends .poll
          | some c =>
            if commandApplies c m = true then sends (commandRequest c m.item)
            else .next
              { s with
                agenda := rest
                mirror := updateAt a { m with hostSlot := none } s.mirror
                log := s.log ++ [.e10Master a c m.mst]
                out := s.out ++ encode a .poll
                phase := .mAwait a .poll [] }

/-- R130, R243, R322: a word in M_IDLE is ignored; a mode-clear word of a response is collected; at `MAX_RSP_LEN` words the
response is overlong: a miss, whose errors come before E1, and the turn passes. -/
def Obligations.MasterCollectsAResponse : Prop :=
  ∀ (s : State) (w : Word9) (rest : List Move), Offered s .master (.rxWord w) rest →
    (s.phase = .mIdle → step s = .next { s with agenda := rest }) ∧
    (∀ a r buf, s.phase = .mAwait a r buf → modeOf w = false →
      (buf.length + 1 ≠ s.cfg.maxRspLen →
        step s = .next { s with agenda := rest, phase := .mAwait a r (buf ++ [w]) }) ∧
      (∀ m, buf.length + 1 = s.cfg.maxRspLen → s.mirrorAt a = some m →
        step s = .next { s with
          agenda := rest
          mirror := updateAt a (missed s.cfg a r m).1 s.mirror
          log := s.log ++ ((missed s.cfg a r m).2 ++ [.e1 .overlong])
          turn := (s.turn + 1) % s.cfg.addrs.length
          phase := .mIdle }))

/-- R250 to R252, R273: every valid response is acknowledged where it is data and ends the run of misses; one outside the table of
R251 raises E8 and restarts the handshake, `hostSlot` and `outSlot` being kept; one in the table raises no E8. -/
def Obligations.UnexpectedResponseRestartsTheHandshake : Prop :=
  ∀ (s : State) (a : Addr5) (r : Instr) (m : MInstance) (buf : List Word9) (w : Word9) (c : ResponseClass)
    (rest : List Move), Offered s .master (.rxWord w) rest → s.phase = .mAwait a r buf → modeOf w = true →
    classify (buf ++ [w]) = (c, []) → (c = .ack ∨ ∃ bytes, c = .data bytes) → s.mirrorAt a = some m →
    let ack := if c = .ack then [] else [(0x000 : Word9)]
    (expectedAnswer r m c = false →
      step s = .next { s with
        agenda := rest
        mirror := updateAt a (restartedAt s.cfg m .hReset) s.mirror
        out := s.out ++ ack
        log := s.log ++ [.e8 a r c]
        turn := (s.turn + 1) % s.cfg.addrs.length
        phase := .mIdle }) ∧
    (expectedAnswer r m c = true →
      ∃ m' es, m'.misses = 0 ∧ (∀ b q k, .e8 b q k ∉ es) ∧
        step s = .next { s with
          agenda := rest
          mirror := updateAt a m' s.mirror
          out := s.out ++ ack
          log := s.log ++ es
          turn := (s.turn + 1) % s.cfg.addrs.length
          phase := .mIdle })

/-- R253 to R255: a timeout, a NAK, a word other than ACK and NAK alone, and a response with a wrong checksum are misses, each with
its own error first; a POLL's counts, and at `MAX_POLL_MISSES` the peripheral is offline; any other request is left to be sent
again. The master sends nothing. -/
def Obligations.MissedResponsesAreCounted : Prop :=
  ∀ (s : State) (a : Addr5) (r : Instr) (m : MInstance) (buf : List Word9) (rest : List Move),
    s.phase = .mAwait a r buf → s.mirrorAt a = some m →
    let ended (es : List ErrorEvent) := Host.Outcome.next (ρ := Refusal) (φ := Fault)
      { s with
        agenda := rest
        mirror := updateAt a (missed s.cfg a r m).1 s.mirror
        log := s.log ++ (es ++ (missed s.cfg a r m).2)
        turn := (s.turn + 1) % s.cfg.addrs.length
        phase := .mIdle }
    (Offered s .master .rspTimeout rest → step s = ended [.e4 a r]) ∧
    (∀ w, Offered s .master (.rxWord w) rest → modeOf w = true →
      (buf ++ [w] = [0x1FF] → step s = ended []) ∧
      (buf = [] → w ≠ 0x100 → w ≠ 0x1FF → step s = ended [.e1 .badLinkWord]) ∧
      (buf ≠ [] → checksumValid ((buf ++ [w]).map dataOf) = false → step s = ended [.e1 .checksum]))

/-- R256 to R261: the expected answers of the startup handshake take the mirror from H_RESET to H_RUN. -/
def Obligations.HandshakeAnswersAdvanceTheMirror : Prop :=
  ∀ (s : State) (a : Addr5) (r : Instr) (m : MInstance) (buf : List Word9) (w : Word9) (rest : List Move),
    Offered s .master (.rxWord w) rest → s.phase = .mAwait a r buf → modeOf w = true → s.mirrorAt a = some m →
    let ended (m' : MInstance) (ack : List Word9) := Host.Outcome.next (ρ := Refusal) (φ := Fault)
      { s with
        agenda := rest
        mirror := updateAt a { m' with misses := 0 } s.mirror
        out := s.out ++ ack
        turn := (s.turn + 1) % s.cfg.addrs.length
        phase := .mIdle }
    (r = .reset → buf ++ [w] = [0x100] → step s = ended { m with hs := .hWaitJr } []) ∧
    (r = .poll → m.hs = .hWaitJr → buf ++ [w] = [0x100] → step s = ended m []) ∧
    (r = .poll → m.hs = .hWaitJr → buf ++ [w] = [0x000, 0x100] → step s = ended { m with hs := .hConfig } [0x000]) ∧
    (∀ fl c1 c0 scale dec tmo opt p1 p2 p3 p4, r = .configData p1 p2 p3 p4 →
      buf ++ [w] = frameP [0x01, fl, c1, c0, scale, dec, tmo, opt] →
      step s = ended
        { m with
          mst := .disabled, hs := .hMaxMin
          pcfg := { scaleFactor := scale, decimalPlaces := dec, responseTimeout := tmo,
                    miscellaneousOptions := opt } } [0x000]) ∧
    (∀ mx mn, r = .maxMinPrices mx mn → buf ++ [w] = [0x100] → step s = ended { m with hs := .hExpId } []) ∧
    (∀ p1 p2 p3 p4 record, r = .requestId p1 p2 p3 p4 → record.length = 29 → buf ++ [w] = frameP (0x09 :: record) →
      step s = ended { m with hs := .hEnable } [0x000]) ∧
    (r = .readerEnable → m.hs = .hEnable → buf ++ [w] = [0x100] →
      step s = ended { m with mst := .enabled, hs := .hRun } [])

/-- R263 to R269: what a POLL in H_RUN learns from the events the mirror expects. -/
def Obligations.PollEventsMoveTheMirror : Prop :=
  ∀ (s : State) (a : Addr5) (m : MInstance) (buf : List Word9) (w : Word9) (h l : Byte) (rest : List Move),
    Offered s .master (.rxWord w) rest → s.phase = .mAwait a .poll buf → modeOf w = true → s.mirrorAt a = some m →
    m.hs = .hRun →
    let ended (m' : MInstance) (es : List ErrorEvent) (ack : List Word9) :=
      Host.Outcome.next (ρ := Refusal) (φ := Fault)
        { s with
          agenda := rest
          mirror := updateAt a { m' with misses := 0 } s.mirror
          log := s.log ++ es
          out := s.out ++ ack
          turn := (s.turn + 1) % s.cfg.addrs.length
          phase := .mIdle }
    let lost := if m.outSlot.isSome then [ErrorEvent.e9 .outSlot] else []
    let restarted (hs : HsStep) : MInstance :=
      { m with
        mst := .inactive, hs := hs
        pcfg := { scaleFactor := 1, decimalPlaces := 0, responseTimeout := s.cfg.tRespDefault,
                  miscellaneousOptions := 0 }
        funds := 0, price := 0, item := 0, approved := false, endSt := .eNone }
    (buf ++ [w] = [0x100] → step s = ended m [] []) ∧
    (buf ++ [w] = frameP [0x03, h, l] → m.mst = .enabled →
      step s = ended
        { m with mst := .idle, funds := be16 h l, endSt := .eNone, outSlot := some (.beginSession (be16 h l)) }
        lost [0x000]) ∧
    (buf ++ [w] = frameP [0x05, h, l] → m.mst = .vend → m.approved = false →
      step s = ended { m with approved := true, outSlot := some (.vendApproved (be16 h l)) } lost [0x000]) ∧
    (buf ++ [w] = frameP [0x06] → m.mst = .vend → m.approved = false →
      step s = ended { m with mst := .idle, outSlot := some .vendDenied } lost [0x000]) ∧
    (buf ++ [w] = frameP [0x07] → m.mst = .idle →
      step s = ended
        { m with
          mst := .enabled, funds := 0, price := 0, item := 0, approved := false, endSt := .eNone
          outSlot := some .sessionEnded } lost [0x000]) ∧
    (buf ++ [w] = frameP [0x04] → m.mst = .idle →
      step s = ended { m with endSt := .eOwed, outSlot := some .sessionCancelRequest } lost [0x000]) ∧
    (buf ++ [w] = frameP [0x0B] → step s = ended (restarted .hReset) [.e3Peer a] [0x000]) ∧
    (buf ++ [w] = frameP [0x00] → step s = ended (restarted .hConfig) [] [0x000])

/-- R262: the expected answer to a host or owed command in H_RUN moves the mirror and, whatever is queued, empties the slot exactly
where the queued command builds the request answered. -/
def Obligations.AcknowledgedHostCommandsMoveTheMirror : Prop :=
  ∀ (s : State) (a : Addr5) (r : Instr) (m : MInstance) (buf : List Word9) (w : Word9) (rest : List Move),
    Offered s .master (.rxWord w) rest → s.phase = .mAwait a r buf → modeOf w = true →
    s.mirrorAt a = some m → m.hs = .hRun →
    let slot := match m.hostSlot with
      | none => none
      | some c => if commandRequest c m.item = r then none else some c
    let ended (m' : MInstance) (ack : List Word9) := Host.Outcome.next (ρ := Refusal) (φ := Fault)
      { s with
        agenda := rest
        mirror := updateAt a { m' with misses := 0, hostSlot := slot } s.mirror
        out := s.out ++ ack
        turn := (s.turn + 1) % s.cfg.addrs.length
        phase := .mIdle }
    (buf ++ [w] = [0x100] →
      (∀ p n, r = .vendRequest p n → step s = ended { m with mst := .vend, price := p, item := n, approved := false } []) ∧
      (∀ n, r = .vendSuccess n → step s = ended { m with mst := .idle, approved := false } []) ∧
      (r = .vendFailure → step s = ended { m with mst := .idle, approved := false } []) ∧
      (r = .sessionComplete → step s = ended { m with mst := .idle, approved := false, endSt := .eSent } []) ∧
      (∀ p n, r = .cashSale p n → step s = ended m []) ∧
      (r = .readerDisable → step s = ended { m with mst := .disabled } []) ∧
      (r = .readerEnable → step s = ended { m with mst := .enabled } [])) ∧
    (buf ++ [w] = [0x008, 0x108] → r = .readerCancel → step s = ended m [0x000])

/-- R270: a host command is queued, or dropped with E5 where one is already queued. -/
def Obligations.HostCommandIsQueuedOrDropped : Prop :=
  ∀ (s : State) (a : Addr5) (m : MInstance) (c : HostCmd) (rest : List Move),
    Offered s .master (.hostCmd a c) rest → s.mirrorAt a = some m →
    step s = .next
      (if m.hostSlot = none then
        { s with
          agenda := rest
          mirror := updateAt a { m with hostSlot := some c } s.mirror
          results := s.results ++ [(a, .accepted)] }
      else { s with agenda := rest, log := s.log ++ [.e5Master a c], results := s.results ++ [(a, .dropped)] })

/-- R243: every transaction ends with the next address's turn and M_IDLE, and nothing else moves either. -/
def Obligations.TransactionsEndWithTheNextTurn : Prop :=
  ∀ (s t : State), step s = .next t →
    (t.turn = s.turn ∧ (s.phase ≠ .mIdle → t.phase ≠ .mIdle)) ∨
      (s.phase ≠ .mIdle ∧ t.phase = .mIdle ∧ t.turn = (s.turn + 1) % s.cfg.addrs.length)

/-! ### The block's own move -/

/-- R15, R113, R230, R310: the move a block makes where none is chosen for it. A constructed PERIPHERAL waits and a constructed
MASTER's first step starts RESET to `ADDRS[0]` (R310). Which of several enabled steps comes first is the model's choice
(notes/assumptions/2.md): a PERIPHERAL transmits, else takes a frame, else consumes the call of the first address that holds one,
else waits; a MASTER starts a transaction or waits for the response. -/
def Obligations.BlocksMoveOnTheirOwn : Prop :=
  (∀ cfg : Config, configOk cfg = true → cfg.role = .peripheral →
      step (State.construct cfg) = .next (State.construct cfg)) ∧
    (∀ (cfg : Config) (a : Addr5), configOk cfg = true → cfg.role = .master → cfg.addrs.head? = some a →
      step (State.construct cfg) =
        .next { State.construct cfg with out := encode a .reset, phase := .mAwait a .reset [] }) ∧
    (∀ s : State, configOk s.cfg = true → s.cfg.role = .peripheral → s.agenda = [] →
      let transmits := s.txSlot.isSome = true ∧ (s.rx = .idle ∨ s.rx = .skip)
      (transmits → step s = step { s with agenda := [.transmit] }) ∧
      (¬ transmits → s.rxSlot ≠ none → step s = step { s with agenda := [.frame] }) ∧
      (∀ before a i after, ¬ transmits → s.rxSlot = none → s.inst = before ++ (a, i) :: after →
        (∀ q ∈ before, q.2.inq = none) → i.inq ≠ none → step s = step { s with agenda := [.consume a] }) ∧
      (¬ transmits → s.rxSlot = none → (∀ q ∈ s.inst, q.2.inq = none) → step s = .next s)) ∧
    (∀ s : State, configOk s.cfg = true → s.cfg.role = .master → s.agenda = [] →
      (s.phase = .mIdle → step s = step { s with agenda := [.start] }) ∧
      (s.phase ≠ .mIdle → step s = .next s))

/-! ### The joined system -/

/-- R274: on a perfect line every transaction leaves the mirror at the session's state; in it the peripheral takes no command
out of sequence and a running master does not restart. The order of the moves in a transaction is the model's
(notes/assumptions/12.md). -/
def Obligations.TransactionsKeepTheMirror : Prop :=
  ∀ (a : Addr5) (m p : State), JoinedOk a m p →
    let after := transact m p
    JoinedOk a after.1 after.2 ∧
      (∀ mi pi, after.1.mirrorAt a = some mi → after.2.instanceAt a = some pi → mi.mst = pi.st) ∧
      (∀ k st, .e3 k st ∈ after.2.log → .e3 k st ∈ p.log) ∧
      (∀ mi mi', m.mirrorAt a = some mi → after.1.mirrorAt a = some mi' → mi.hs = .hRun → mi'.hs = .hRun)

/-- R274, step by step: words, moves of both blocks, host calls, host reads, consume steps and session timeouts at any point of a
transaction keep the joined invariant, of which `JoinedOk` is the state between transactions with nothing on the line. Whenever no
transaction is open the mirror's state is the session's; the peripheral takes no command out of sequence; a running master does
not restart. A response timeout is excluded, as R274 excludes it: while a transaction is open a response is always to come. What
the blocks have on the line between them is the model's (notes/assumptions/12.md). -/
def Obligations.JoinedStepsKeepTheMirror : Prop :=
  (∀ (a : Addr5) (m p : State), JoinedOk a m p → JoinedInv a ⟨m, p, [], []⟩) ∧
    ∀ (a : Addr5) (j : Joined), JoinedInv a j →
      (j.master.phase = .mIdle → JoinedOk a j.master j.peripheral ∧
        ∀ m i, j.master.mirrorAt a = some m → j.peripheral.instanceAt a = some i → m.mst = i.st) ∧
      ∀ mv : JoinedMove, mv ≠ .master .rspTimeout →
        let k := j.step mv
        JoinedInv a k ∧ (∀ kind st, .e3 kind st ∈ k.peripheral.log → .e3 kind st ∈ j.peripheral.log) ∧
          (∀ m m', j.master.mirrorAt a = some m → k.master.mirrorAt a = some m' → m.hs = .hRun → m'.hs = .hRun)
end

