-- ==== Sys2Proof/Laws/Codec.lean ====
section
/-! SUPPORT. Words, bytes, checksums and the command table: what each operation of Sys2Proof/Decode.lean gives back, so that no
proof unfolds a bit slice. -/

namespace Sys2Proof

/-! ### Words and bytes -/

/-- The low part of a join. -/
theorem extractLsb'_low {m n : Nat} (x : BitVec m) (y : BitVec n) : (x ++ y).extractLsb' 0 n = y := by
  apply BitVec.eq_of_getLsbD_eq
  intro i hi
  simp [BitVec.getLsbD_append, hi]

/-- The high part of a join. -/
theorem extractLsb'_high {m n : Nat} (x : BitVec m) (y : BitVec n) : (x ++ y).extractLsb' n m = x := by
  apply BitVec.eq_of_getLsbD_eq
  intro i hi
  simp [BitVec.getLsbD_append, hi]

/-- A vector is the join of its high and low parts. -/
theorem append_extractLsb' {m n : Nat} (v : BitVec (m + n)) : v.extractLsb' n m ++ v.extractLsb' 0 n = v := by
  simp

@[simp] theorem modeOf_mkWord (m : Bool) (d : Byte) : modeOf (mkWord m d) = m := by
  cases m <;> revert d <;> decide

@[simp] theorem dataOf_mkWord (m : Bool) (d : Byte) : dataOf (mkWord m d) = d := extractLsb'_low (BitVec.ofBool m) d

/-- A word is its mode flag and its data byte. -/
@[simp] theorem mkWord_eta (w : Word9) : mkWord (modeOf w) (dataOf w) = w := by
  have h : BitVec.ofBool (modeOf w) = w.extractLsb' 8 1 := by
    apply BitVec.eq_of_getLsbD_eq
    intro i hi
    obtain rfl : i = 0 := by omega
    simp [modeOf]
  rw [mkWord, h]
  exact append_extractLsb' (m := 1) (n := 8) w

/-- Two words are equal exactly where their mode flags and their data bytes are. -/
@[simp] theorem mkWord_inj (m n : Bool) (d e : Byte) : mkWord m d = mkWord n e ↔ m = n ∧ d = e :=
  ⟨fun h => ⟨by simpa using congrArg modeOf h, by simpa using congrArg dataOf h⟩, by rintro ⟨rfl, rfl⟩; rfl⟩

@[simp] theorem hi8_be16 (h l : Byte) : hi8 (be16 h l) = h := extractLsb'_high h l

@[simp] theorem lo8_be16 (h l : Byte) : lo8 (be16 h l) = l := extractLsb'_low h l

@[simp] theorem be16_hi8_lo8 (v : U16) : be16 (hi8 v) (lo8 v) = v := append_extractLsb' (m := 8) (n := 8) v

@[simp] theorem addressOf_addressByte (a : Addr5) (c : BitVec 3) : addressOf (addressByte a c) = a :=
  extractLsb'_high a c

@[simp] theorem commandCode_addressByte (a : Addr5) (c : BitVec 3) : commandCode (addressByte a c) = c :=
  extractLsb'_low a c

/-- An address byte is its address and its command code. -/
@[simp] theorem addressByte_eta (b : Byte) : addressByte (addressOf b) (commandCode b) = b :=
  append_extractLsb' (m := 5) (n := 3) b

/-! ### Checksums -/

@[simp] theorem sum8_nil : sum8 [] = 0 := rfl
@[simp] theorem sum8_cons (x : Byte) (xs : List Byte) : sum8 (x :: xs) = x + sum8 xs := rfl

@[simp] theorem sum8_append (xs ys : List Byte) : sum8 (xs ++ ys) = sum8 xs + sum8 ys := by
  induction xs with
  | nil => simp
  | cons x xs ih => simp [ih, BitVec.add_assoc]

/-- The checksum test of a frame given as its bytes and its last byte (rule R121). -/
theorem checksumValid_snoc (xs : List Byte) (c : Byte) :
    checksumValid (xs ++ [c]) = decide (xs ≠ [] ∧ c = sum8 xs) := by
  rcases xs with _ | ⟨x, xs⟩
  · simp [checksumValid]
  · have h : (x :: xs ++ [c]).getLast? = some c := List.getLast?_concat
    have h' : (x :: xs ++ [c]).dropLast = x :: xs := List.dropLast_concat
    rw [checksumValid, h, h']
    simp

/-- Every checksum-valid frame is a non-empty list of bytes and its sum (rule R121). -/
theorem checksumValid_iff (f : List Byte) : checksumValid f = true ↔ ∃ xs, xs ≠ [] ∧ f = xs ++ [sum8 xs] := by
  rcases List.eq_nil_or_concat f with rfl | ⟨xs, c, rfl⟩
  · simp [checksumValid]
  · simp only [List.concat_eq_append, checksumValid_snoc, decide_eq_true_eq]
    constructor
    · rintro ⟨h, rfl⟩; exact ⟨xs, h, rfl⟩
    · rintro ⟨ys, hy, h⟩
      obtain ⟨rfl, h⟩ := List.append_inj' h rfl
      exact ⟨hy, by simpa using h⟩

/-! ### The command table -/

@[simp] theorem commandOf_commandNumber (c : Command) : commandOf (commandNumber c) = some c := by cases c <;> rfl

@[simp] theorem commandOf_0 : commandOf 0#3 = some .reset := rfl
@[simp] theorem commandOf_1 : commandOf 1#3 = some .setup := rfl
@[simp] theorem commandOf_2 : commandOf 2#3 = some .poll := rfl
@[simp] theorem commandOf_3 : commandOf 3#3 = some .vend := rfl
@[simp] theorem commandOf_4 : commandOf 4#3 = some .reader := rfl
@[simp] theorem commandOf_7 : commandOf 7#3 = some .expansion := rfl

/-- The code of the command a code names is that code (rule R77). -/
theorem commandNumber_of_commandOf {c : BitVec 3} {k : Command} (h : commandOf c = some k) : c = commandNumber k := by
  revert h k
  revert c
  decide

/-- Codes 5 and 6, and only these, name no command (rules R77, R90). -/
theorem commandOf_eq_none (c : BitVec 3) : commandOf c = none ↔ c = 5 ∨ c = 6 := by
  revert c
  decide

/-- The length is known from byte 0 alone for RESET and POLL (rule R85). -/
theorem lengthFromCommand_eq (c : BitVec 3) : lengthFromCommand c = if c = 0 ∨ c = 2 then some 2 else none := by
  revert c
  decide

/-- The kinds a code and a sub-command select, with the values that select them (rule R78). -/
theorem kindOf_eq_some {c : BitVec 3} {sub : Byte} {k : Kind} (h : kindOf c sub = some k) :
    match k with
    | .reset => c = 0
    | .configData => c = 1 ∧ sub = 0
    | .maxMinPrices => c = 1 ∧ sub = 1
    | .poll => c = 2
    | .vendRequest => c = 3 ∧ sub = 0
    | .vendCancel => c = 3 ∧ sub = 1
    | .vendSuccess => c = 3 ∧ sub = 2
    | .vendFailure => c = 3 ∧ sub = 3
    | .sessionComplete => c = 3 ∧ sub = 4
    | .cashSale => c = 3 ∧ sub = 5
    | .readerDisable => c = 4 ∧ sub = 0
    | .readerEnable => c = 4 ∧ sub = 1
    | .readerCancel => c = 4 ∧ sub = 2
    | .requestId => c = 7 ∧ sub = 0 := by
  unfold kindOf at h
  rcases hc : commandOf c with _ | cmd
  · simp [hc] at h
  · have := commandNumber_of_commandOf hc
    cases cmd <;> simp only [hc] at h <;> simp only [commandNumber] at this
    · cases h; exact this
    · unfold setupKind at h
      repeat' split at h
      all_goals cases h <;> exact ⟨this, ‹_›⟩
    · cases h; exact this
    · unfold vendKind at h
      repeat' split at h
      all_goals cases h <;> exact ⟨this, ‹_›⟩
    · unfold readerKind at h
      repeat' split at h
      all_goals cases h <;> exact ⟨this, ‹_›⟩
    · unfold expansionKind at h
      split at h <;> cases h
      exact ⟨this, ‹_›⟩

/-! ### Frames on the line -/

/-- The bytes of a request are never empty. -/
theorem requestBytes_ne_nil (a : Addr5) (r : Instr) : requestBytes a r ≠ [] := by cases r <;> simp [requestBytes]

/-- The frame a master emits: mode 1 on the first word only, the checksum last (rules R76, R124). -/
theorem masterFrame_cons (x : Byte) (xs : List Byte) :
    masterFrame (x :: xs) = mkWord true x :: ((xs ++ [sum8 (x :: xs)]).map (mkWord false)) := by
  simp [masterFrame]

namespace Machine

/-- The response a peripheral emits is its bytes mode-clear and its checksum mode-flagged (rules R76, R123). -/
theorem frameP_snoc (xs : List Byte) : frameP xs = xs.map (mkWord false) ++ [mkWord true (sum8 xs)] := rfl

@[simp] theorem frameP_length (xs : List Byte) : (frameP xs).length = xs.length + 1 := by simp [frameP]

@[simp] theorem frameP_data (xs : List Byte) : (frameP xs).map dataOf = xs ++ [sum8 xs] := by
  simp [frameP, Function.comp_def]

/-- What a response of one word is classified as (rule R131). -/
theorem classify_one (w : Word9) :
    classify [w] = if w = 0x100 then (.ack, []) else if w = 0x1FF then (.nak, [])
      else (.invalid, [.e1 .badLinkWord]) := rfl

/-- What a response of at least two words is classified as (rule R131). -/
theorem classify_many (x y : Word9) (ws : List Word9) :
    classify (x :: y :: ws) =
      if checksumValid ((x :: y :: ws).map dataOf) then (.data ((x :: y :: ws).dropLast.map dataOf), [])
      else (.invalid, [.e1 .checksum]) := rfl

/-- Every response classification: a valid class raises nothing (rule R131). -/
theorem classify_valid_errs {u : List Word9} {c : ResponseClass} {es : List ErrorEvent} (h : classify u = (c, es)) :
    (c = .ack ∨ c = .nak ∨ ∃ r, c = .data r) ∧ es = [] ∨
      c = .invalid ∧ (es = [.e1 .badLinkWord] ∨ es = [.e1 .checksum]) := by
  unfold classify at h
  split at h
  · split at h
    · cases h; exact .inl ⟨.inl rfl, rfl⟩
    · split at h <;> cases h
      · exact .inl ⟨.inr (.inl rfl), rfl⟩
      · exact .inr ⟨rfl, .inl rfl⟩
  · split at h <;> cases h
    · exact .inl ⟨.inr (.inr ⟨_, rfl⟩), rfl⟩
    · exact .inr ⟨rfl, .inr rfl⟩

end Machine

end Sys2Proof
end

