-- ==== Sys2Proof/Laws/State.lean ====
section
/-! SUPPORT. One lemma per field per named update of State, true by rfl, so that no proof unfolds a record update. -/

namespace Sys2Proof.Machine

/-! ### State.putInstance -/

section
variable (s : State) (a : Addr5) (i : Instance)

@[simp] theorem State.putInstance_cfg : (s.putInstance a i).cfg = s.cfg := rfl
@[simp] theorem State.putInstance_inst : (s.putInstance a i).inst = updateAt a i s.inst := rfl
@[simp] theorem State.putInstance_rx : (s.putInstance a i).rx = s.rx := rfl
@[simp] theorem State.putInstance_rxSlot : (s.putInstance a i).rxSlot = s.rxSlot := rfl
@[simp] theorem State.putInstance_txSlot : (s.putInstance a i).txSlot = s.txSlot := rfl
@[simp] theorem State.putInstance_mirror : (s.putInstance a i).mirror = s.mirror := rfl
@[simp] theorem State.putInstance_turn : (s.putInstance a i).turn = s.turn := rfl
@[simp] theorem State.putInstance_phase : (s.putInstance a i).phase = s.phase := rfl
@[simp] theorem State.putInstance_out : (s.putInstance a i).out = s.out := rfl
@[simp] theorem State.putInstance_log : (s.putInstance a i).log = s.log := rfl
@[simp] theorem State.putInstance_seen : (s.putInstance a i).seen = s.seen := rfl
@[simp] theorem State.putInstance_results : (s.putInstance a i).results = s.results := rfl
@[simp] theorem State.putInstance_agenda : (s.putInstance a i).agenda = s.agenda := rfl

end

/-! ### State.putMirror -/

section
variable (s : State) (a : Addr5) (m : MInstance)

@[simp] theorem State.putMirror_cfg : (s.putMirror a m).cfg = s.cfg := rfl
@[simp] theorem State.putMirror_inst : (s.putMirror a m).inst = s.inst := rfl
@[simp] theorem State.putMirror_rx : (s.putMirror a m).rx = s.rx := rfl
@[simp] theorem State.putMirror_rxSlot : (s.putMirror a m).rxSlot = s.rxSlot := rfl
@[simp] theorem State.putMirror_txSlot : (s.putMirror a m).txSlot = s.txSlot := rfl
@[simp] theorem State.putMirror_mirror : (s.putMirror a m).mirror = updateAt a m s.mirror := rfl
@[simp] theorem State.putMirror_turn : (s.putMirror a m).turn = s.turn := rfl
@[simp] theorem State.putMirror_phase : (s.putMirror a m).phase = s.phase := rfl
@[simp] theorem State.putMirror_out : (s.putMirror a m).out = s.out := rfl
@[simp] theorem State.putMirror_log : (s.putMirror a m).log = s.log := rfl
@[simp] theorem State.putMirror_seen : (s.putMirror a m).seen = s.seen := rfl
@[simp] theorem State.putMirror_results : (s.putMirror a m).results = s.results := rfl
@[simp] theorem State.putMirror_agenda : (s.putMirror a m).agenda = s.agenda := rfl

end

/-! ### State.raise -/

section
variable (s : State) (es : List ErrorEvent)

@[simp] theorem State.raise_cfg : (s.raise es).cfg = s.cfg := rfl
@[simp] theorem State.raise_inst : (s.raise es).inst = s.inst := rfl
@[simp] theorem State.raise_rx : (s.raise es).rx = s.rx := rfl
@[simp] theorem State.raise_rxSlot : (s.raise es).rxSlot = s.rxSlot := rfl
@[simp] theorem State.raise_txSlot : (s.raise es).txSlot = s.txSlot := rfl
@[simp] theorem State.raise_mirror : (s.raise es).mirror = s.mirror := rfl
@[simp] theorem State.raise_turn : (s.raise es).turn = s.turn := rfl
@[simp] theorem State.raise_phase : (s.raise es).phase = s.phase := rfl
@[simp] theorem State.raise_out : (s.raise es).out = s.out := rfl
@[simp] theorem State.raise_log : (s.raise es).log = s.log ++ es := rfl
@[simp] theorem State.raise_seen : (s.raise es).seen = s.seen := rfl
@[simp] theorem State.raise_results : (s.raise es).results = s.results := rfl
@[simp] theorem State.raise_agenda : (s.raise es).agenda = s.agenda := rfl

end

/-! ### State.emit -/

section
variable (s : State) (ws : List Word9)

@[simp] theorem State.emit_cfg : (s.emit ws).cfg = s.cfg := rfl
@[simp] theorem State.emit_inst : (s.emit ws).inst = s.inst := rfl
@[simp] theorem State.emit_rx : (s.emit ws).rx = s.rx := rfl
@[simp] theorem State.emit_rxSlot : (s.emit ws).rxSlot = s.rxSlot := rfl
@[simp] theorem State.emit_txSlot : (s.emit ws).txSlot = s.txSlot := rfl
@[simp] theorem State.emit_mirror : (s.emit ws).mirror = s.mirror := rfl
@[simp] theorem State.emit_turn : (s.emit ws).turn = s.turn := rfl
@[simp] theorem State.emit_phase : (s.emit ws).phase = s.phase := rfl
@[simp] theorem State.emit_out : (s.emit ws).out = s.out ++ ws := rfl
@[simp] theorem State.emit_log : (s.emit ws).log = s.log := rfl
@[simp] theorem State.emit_seen : (s.emit ws).seen = s.seen := rfl
@[simp] theorem State.emit_results : (s.emit ws).results = s.results := rfl
@[simp] theorem State.emit_agenda : (s.emit ws).agenda = s.agenda := rfl

end

/-! ### State.observe -/

section
variable (s : State) (o : Observed)

@[simp] theorem State.observe_cfg : (s.observe o).cfg = s.cfg := rfl
@[simp] theorem State.observe_inst : (s.observe o).inst = s.inst := rfl
@[simp] theorem State.observe_rx : (s.observe o).rx = s.rx := rfl
@[simp] theorem State.observe_rxSlot : (s.observe o).rxSlot = s.rxSlot := rfl
@[simp] theorem State.observe_txSlot : (s.observe o).txSlot = s.txSlot := rfl
@[simp] theorem State.observe_mirror : (s.observe o).mirror = s.mirror := rfl
@[simp] theorem State.observe_turn : (s.observe o).turn = s.turn := rfl
@[simp] theorem State.observe_phase : (s.observe o).phase = s.phase := rfl
@[simp] theorem State.observe_out : (s.observe o).out = s.out := rfl
@[simp] theorem State.observe_log : (s.observe o).log = s.log := rfl
@[simp] theorem State.observe_seen : (s.observe o).seen = s.seen ++ [o] := rfl
@[simp] theorem State.observe_results : (s.observe o).results = s.results := rfl
@[simp] theorem State.observe_agenda : (s.observe o).agenda = s.agenda := rfl

end

/-! ### State.answerHost -/

section
variable (s : State) (a : Addr5) (r : SendResult)

@[simp] theorem State.answerHost_cfg : (s.answerHost a r).cfg = s.cfg := rfl
@[simp] theorem State.answerHost_inst : (s.answerHost a r).inst = s.inst := rfl
@[simp] theorem State.answerHost_rx : (s.answerHost a r).rx = s.rx := rfl
@[simp] theorem State.answerHost_rxSlot : (s.answerHost a r).rxSlot = s.rxSlot := rfl
@[simp] theorem State.answerHost_txSlot : (s.answerHost a r).txSlot = s.txSlot := rfl
@[simp] theorem State.answerHost_mirror : (s.answerHost a r).mirror = s.mirror := rfl
@[simp] theorem State.answerHost_turn : (s.answerHost a r).turn = s.turn := rfl
@[simp] theorem State.answerHost_phase : (s.answerHost a r).phase = s.phase := rfl
@[simp] theorem State.answerHost_out : (s.answerHost a r).out = s.out := rfl
@[simp] theorem State.answerHost_log : (s.answerHost a r).log = s.log := rfl
@[simp] theorem State.answerHost_seen : (s.answerHost a r).seen = s.seen := rfl
@[simp] theorem State.answerHost_results : (s.answerHost a r).results = s.results ++ [(a, r)] := rfl
@[simp] theorem State.answerHost_agenda : (s.answerHost a r).agenda = s.agenda := rfl

end

/-! ### State.discard -/

section
variable (s : State) (a : Addr5)

@[simp] theorem State.discard_cfg : (s.discard a).cfg = s.cfg := rfl
@[simp] theorem State.discard_inst : (s.discard a).inst = s.inst := rfl
@[simp] theorem State.discard_rx : (s.discard a).rx = s.rx := rfl
@[simp] theorem State.discard_rxSlot : (s.discard a).rxSlot = none := rfl
@[simp] theorem State.discard_txSlot : (s.discard a).txSlot = s.txSlot := rfl
@[simp] theorem State.discard_mirror : (s.discard a).mirror = s.mirror := rfl
@[simp] theorem State.discard_turn : (s.discard a).turn = s.turn := rfl
@[simp] theorem State.discard_phase : (s.discard a).phase = s.phase := rfl
@[simp] theorem State.discard_out : (s.discard a).out = s.out := rfl
@[simp] theorem State.discard_log : (s.discard a).log = s.log ++ [.e2 a] := rfl
@[simp] theorem State.discard_seen : (s.discard a).seen = s.seen := rfl
@[simp] theorem State.discard_results : (s.discard a).results = s.results := rfl
@[simp] theorem State.discard_agenda : (s.discard a).agenda = s.agenda := rfl

end

/-! ### State.answer -/

section
variable (s : State) (a : Addr5) (k : Kind) (r : CmdResult)

@[simp] theorem State.answer_cfg : (s.answer a k r).cfg = s.cfg := rfl
@[simp] theorem State.answer_inst : (s.answer a k r).inst = updateAt a (restartIdle k r) s.inst := rfl
@[simp] theorem State.answer_rx : (s.answer a k r).rx = s.rx := rfl
@[simp] theorem State.answer_rxSlot : (s.answer a k r).rxSlot = none := rfl
@[simp] theorem State.answer_txSlot : (s.answer a k r).txSlot = some r.resp := rfl
@[simp] theorem State.answer_mirror : (s.answer a k r).mirror = s.mirror := rfl
@[simp] theorem State.answer_turn : (s.answer a k r).turn = s.turn := rfl
@[simp] theorem State.answer_phase : (s.answer a k r).phase = s.phase := rfl
@[simp] theorem State.answer_out : (s.answer a k r).out = s.out := rfl
@[simp] theorem State.answer_log : (s.answer a k r).log = s.log ++ (r.errs ++ overwriteEvent s.txSlot .txSlot) := rfl
@[simp] theorem State.answer_seen : (s.answer a k r).seen = s.seen := rfl
@[simp] theorem State.answer_results : (s.answer a k r).results = s.results := rfl
@[simp] theorem State.answer_agenda : (s.answer a k r).agenda = s.agenda := rfl

end

/-! ### State.deliver -/

section
variable (s : State) (a : Addr5) (f : List Byte)

@[simp] theorem State.deliver_cfg : (s.deliver a f).cfg = s.cfg := rfl
@[simp] theorem State.deliver_inst : (s.deliver a f).inst = s.inst := rfl
@[simp] theorem State.deliver_rx : (s.deliver a f).rx = s.rx := rfl
@[simp] theorem State.deliver_rxSlot : (s.deliver a f).rxSlot = some (a, f) := rfl
@[simp] theorem State.deliver_txSlot : (s.deliver a f).txSlot = s.txSlot := rfl
@[simp] theorem State.deliver_mirror : (s.deliver a f).mirror = s.mirror := rfl
@[simp] theorem State.deliver_turn : (s.deliver a f).turn = s.turn := rfl
@[simp] theorem State.deliver_phase : (s.deliver a f).phase = s.phase := rfl
@[simp] theorem State.deliver_out : (s.deliver a f).out = s.out := rfl
@[simp] theorem State.deliver_log : (s.deliver a f).log = s.log ++ overwriteEvent s.rxSlot .rxSlot := rfl
@[simp] theorem State.deliver_seen : (s.deliver a f).seen = s.seen := rfl
@[simp] theorem State.deliver_results : (s.deliver a f).results = s.results := rfl
@[simp] theorem State.deliver_agenda : (s.deliver a f).agenda = s.agenda := rfl

end

/-! ### endTurn -/

section
variable (s : State)

@[simp] theorem endTurn_cfg : (endTurn s).cfg = s.cfg := rfl
@[simp] theorem endTurn_inst : (endTurn s).inst = s.inst := rfl
@[simp] theorem endTurn_rx : (endTurn s).rx = s.rx := rfl
@[simp] theorem endTurn_rxSlot : (endTurn s).rxSlot = s.rxSlot := rfl
@[simp] theorem endTurn_txSlot : (endTurn s).txSlot = s.txSlot := rfl
@[simp] theorem endTurn_mirror : (endTurn s).mirror = s.mirror := rfl
@[simp] theorem endTurn_turn : (endTurn s).turn = (s.turn + 1) % s.cfg.addrs.length := rfl
@[simp] theorem endTurn_phase : (endTurn s).phase = .mIdle := rfl
@[simp] theorem endTurn_out : (endTurn s).out = s.out := rfl
@[simp] theorem endTurn_log : (endTurn s).log = s.log := rfl
@[simp] theorem endTurn_seen : (endTurn s).seen = s.seen := rfl
@[simp] theorem endTurn_results : (endTurn s).results = s.results := rfl
@[simp] theorem endTurn_agenda : (endTurn s).agenda = s.agenda := rfl

end

end Sys2Proof.Machine
end

