-- ==== Sys2Proof/Laws/Tables.lean ====
section
/-! SUPPORT. The tables keyed by bus address: a read after a write, and what a write keeps. The core has no addressed memory
(rule R20); these are the laws its tables of instances and mirrors have in place of memory's. -/

namespace Sys2Proof.Machine

section
variable {α : Type}

/-- A write keeps the addresses of a table and their order. -/
@[simp] theorem updateAt_keys (a : Addr5) (v : α) (t : List (Addr5 × α)) :
    (updateAt a v t).map Prod.fst = t.map Prod.fst := by
  induction t with
  | nil => rfl
  | cons p rest ih =>
    obtain ⟨b, u⟩ := p
    by_cases h : b = a <;> simp [updateAt, h, ih]

/-- The written entry reads as written, where the address has an entry. -/
@[simp] theorem lookupAt_updateAt_self (a : Addr5) (v : α) (t : List (Addr5 × α)) :
    lookupAt a (updateAt a v t) = (lookupAt a t).map fun _ => v := by
  induction t with
  | nil => rfl
  | cons p rest ih =>
    obtain ⟨b, u⟩ := p
    by_cases h : b = a <;> simp [updateAt, lookupAt, h, ih]

/-- Every other entry reads as before. -/
theorem lookupAt_updateAt_ne {a b : Addr5} (h : b ≠ a) (v : α) (t : List (Addr5 × α)) :
    lookupAt b (updateAt a v t) = lookupAt b t := by
  induction t with
  | nil => rfl
  | cons p rest ih =>
    obtain ⟨c, u⟩ := p
    by_cases hc : c = a
    · subst hc
      simp [updateAt, lookupAt, Ne.symm h]
    · by_cases hb : c = b
      · subst hb
        simp [updateAt, lookupAt, hc]
      · simp [updateAt, lookupAt, hc, hb, ih]

/-- A read after a write. -/
theorem lookupAt_updateAt (a b : Addr5) (v : α) (t : List (Addr5 × α)) :
    lookupAt b (updateAt a v t) = if b = a then (lookupAt a t).map fun _ => v else lookupAt b t := by
  by_cases h : b = a
  · subst h; simp
  · simp [h, lookupAt_updateAt_ne h]

/-- Writing what an entry already reads as changes nothing. -/
theorem updateAt_same {a : Addr5} {v : α} {t : List (Addr5 × α)} (h : lookupAt a t = some v) : updateAt a v t = t := by
  induction t with
  | nil => rfl
  | cons p rest ih =>
    obtain ⟨b, u⟩ := p
    by_cases hb : b = a
    · simp [lookupAt, hb] at h
      simp [updateAt, hb, h]
    · simp [lookupAt, hb] at h
      simp [updateAt, hb, ih h]

/-- The second of two writes to one address stands. -/
@[simp] theorem updateAt_updateAt (a : Addr5) (u v : α) (t : List (Addr5 × α)) :
    updateAt a v (updateAt a u t) = updateAt a v t := by
  induction t with
  | nil => rfl
  | cons p rest ih =>
    obtain ⟨b, w⟩ := p
    by_cases h : b = a <;> simp [updateAt, h, ih]

/-- A read entry is an entry of the table. -/
theorem mem_of_lookupAt {a : Addr5} {v : α} {t : List (Addr5 × α)} (h : lookupAt a t = some v) : (a, v) ∈ t := by
  induction t with
  | nil => simp [lookupAt] at h
  | cons p rest ih =>
    obtain ⟨b, u⟩ := p
    by_cases hb : b = a
    · simp [lookupAt, hb] at h
      simp [hb, h]
    · simp [lookupAt, hb] at h
      simp [ih h]

/-- An address has an entry exactly where it is one of the table's addresses. -/
theorem lookupAt_isSome (a : Addr5) (t : List (Addr5 × α)) : (lookupAt a t).isSome ↔ a ∈ t.map Prod.fst := by
  induction t with
  | nil => simp [lookupAt]
  | cons p rest ih =>
    obtain ⟨b, u⟩ := p
    by_cases h : b = a
    · simp [lookupAt, h]
    · simp only [lookupAt, h, if_false, ih, List.map_cons, List.mem_cons]
      exact ⟨Or.inr, fun h' => h'.resolve_left fun e => h e.symm⟩

/-- An entry of a written table is the written value or an entry from before. -/
theorem mem_updateAt {a : Addr5} {v : α} {t : List (Addr5 × α)} {p : Addr5 × α} (h : p ∈ updateAt a v t) :
    p = (a, v) ∨ p ∈ t := by
  induction t with
  | nil => simp [updateAt] at h
  | cons q rest ih =>
    obtain ⟨b, u⟩ := q
    by_cases hb : b = a
    · simp only [updateAt, hb, if_true, List.mem_cons] at h
      rcases h with h | h
      · exact .inl h
      · exact .inr (List.mem_cons_of_mem _ h)
    · simp only [updateAt, hb, if_false, List.mem_cons] at h
      rcases h with h | h
      · exact .inr (h ▸ List.mem_cons_self)
      · exact (ih h).imp id (List.mem_cons_of_mem _)

/-- What holds of every entry and of the written value holds of every entry of the written table. -/
theorem forall_updateAt {P : α → Prop} {a : Addr5} {v : α} {t : List (Addr5 × α)} (ht : ∀ p ∈ t, P p.2) (hv : P v) :
    ∀ p ∈ updateAt a v t, P p.2 := by
  intro p hp
  rcases mem_updateAt hp with rfl | hp
  · exact hv
  · exact ht p hp

/-- A table made of one value reads as that value at each of its addresses. -/
theorem lookupAt_map_const (as : List Addr5) (v : α) (a : Addr5) :
    lookupAt a (as.map fun b => (b, v)) = if a ∈ as then some v else none := by
  induction as with
  | nil => simp [lookupAt]
  | cons b rest ih =>
    by_cases h : b = a
    · simp [lookupAt, h]
    · simp [lookupAt, h, ih, Ne.symm h]

end

/-! ### On the block -/

/-- `I[b]` after `I[a] <- i`. -/
theorem State.instanceAt_putInstance (s : State) (a b : Addr5) (i : Instance) :
    (s.putInstance a i).instanceAt b = if b = a then (s.instanceAt a).map fun _ => i else s.instanceAt b :=
  lookupAt_updateAt a b i s.inst

/-- `M[b]` after `M[a] <- m`. -/
theorem State.mirrorAt_putMirror (s : State) (a b : Addr5) (m : MInstance) :
    (s.putMirror a m).mirrorAt b = if b = a then (s.mirrorAt a).map fun _ => m else s.mirrorAt b :=
  lookupAt_updateAt a b m s.mirror

end Sys2Proof.Machine
end

