-- ==== Sys2Proof/Laws/Step.lean ====
section
/-! SUPPORT. What a step can do, said once: the frame step around a command rule, the dispatch, a move, and `step` itself. -/

namespace Sys2Proof.Machine

/-- The command rule a request is executed by (rule R211). -/
def ruleOf : Instr → Config → Instance → CmdResult
  | .reset => cmdReset
  | .configData _ _ _ _ => cmdConfigData
  | .maxMinPrices _ _ => cmdMaxMinPrices
  | .poll => drain
  | .vendRequest p n => cmdVendRequest p n
  | .vendCancel => cmdVendCancel
  | .vendSuccess _ => cmdVendSuccess
  | .vendFailure => cmdVendFailure
  | .sessionComplete => cmdSessionComplete
  | .cashSale _ _ => cmdCashSale
  | .readerDisable => cmdReaderDisable
  | .readerEnable => cmdReaderEnable
  | .readerCancel => cmdReaderCancel
  | .requestId _ _ _ _ => cmdRequestId

/-- Every arm of `exec` is the frame step around its command rule. -/
theorem exec_eq_protoFrame (r : Instr) (s : State) : exec r s = protoFrame r.kind (ruleOf r) s := by
  cases r <;> rfl

/-- The frame step with a frame for an owned address. -/
theorem protoFrame_owned {s : State} {a : Addr5} {f : List Byte} {i : Instance} (k : Kind)
    (rule : Config → Instance → CmdResult) (hf : s.rxSlot = some (a, f)) (hi : s.instanceAt a = some i) :
    protoFrame k rule s = .next (s.answer a k (rule s.cfg i)) := by
  simp [protoFrame, hf, hi]

/-- A request with a frame for an owned address. -/
theorem exec_owned {s : State} {a : Addr5} {f : List Byte} {i : Instance} (r : Instr)
    (hf : s.rxSlot = some (a, f)) (hi : s.instanceAt a = some i) :
    exec r s = .next (s.answer a r.kind (ruleOf r s.cfg i)) := by
  rw [exec_eq_protoFrame]; exact protoFrame_owned _ _ hf hi

/-- All that executing a request can do. -/
theorem exec_cases (r : Instr) (s : State) :
    (s.rxSlot = none ∧ exec r s = .next s) ∨
      (∃ a f, s.rxSlot = some (a, f) ∧ s.instanceAt a = none ∧ exec r s = .next (s.discard a)) ∨
      (∃ a f i, s.rxSlot = some (a, f) ∧ s.instanceAt a = some i ∧
        exec r s = .next (s.answer a r.kind (ruleOf r s.cfg i))) := by
  rw [exec_eq_protoFrame]
  rcases hf : s.rxSlot with _ | ⟨a, f⟩
  · exact .inl ⟨rfl, by simp [protoFrame, hf]⟩
  · rcases hi : s.instanceAt a with _ | i
    · exact .inr (.inl ⟨a, f, rfl, hi, by simp [protoFrame, hf, hi]⟩)
    · exact .inr (.inr ⟨a, f, i, rfl, hi, protoFrame_owned _ _ hf hi⟩)

/-- All that PROTO's frame step can do: nothing without a frame, the request the frame decodes to, or the fault of rule R194
and notes/assumptions/13.md. -/
theorem frameStep_cases (s : State) :
    (s.rxSlot = none ∧ frameStep s = .next s) ∨
      (∃ a f r, s.rxSlot = some (a, f) ∧ decode f = .ok r ∧ frameStep s = exec r s) ∨
      (∃ a f why, s.rxSlot = some (a, f) ∧ decode f = .error why ∧ frameStep s = .fault (.unassignedFrame why)) := by
  rcases hf : s.rxSlot with _ | ⟨a, f⟩
  · exact .inl ⟨rfl, by simp [frameStep, State.fetch, hf]⟩
  · rcases hd : decode f with why | r
    · exact .inr (.inr ⟨a, f, why, rfl, hd, by simp [frameStep, State.fetch, hf, hd]⟩)
    · exact .inr (.inl ⟨a, f, r, rfl, hd, by simp [frameStep, State.fetch, hf, hd]⟩)

/-- All that a move can do: nothing where its guard does not hold, the frame step, or its one atomic effect. -/
theorem takeMove_cases (s : State) (mv : Move) :
    (enabled s mv = false ∧ takeMove s mv = .next s) ∨
      (enabled s mv = true ∧ mv = .frame ∧ takeMove s mv = frameStep s) ∨
      (enabled s mv = true ∧ mv ≠ .frame ∧ takeMove s mv = .next (performMove s mv)) := by
  rcases he : enabled s mv with _ | _
  · exact .inl ⟨rfl, by simp [takeMove, he]⟩
  · cases mv <;> simp [takeMove, he]

/-- The state a step's move is taken in, with the move: the head of `agenda`, or the block's own move. -/
def nextMove (s : State) : Option (State × Move) :=
  match s.agenda with
  | mv :: rest => some ({ s with agenda := rest }, mv)
  | [] => (idleMove s).map fun mv => (s, mv)

/-- A step from legal parameters takes the next move, or waits where there is none. -/
theorem step_eq {s : State} (hc : configOk s.cfg = true) :
    step s = match nextMove s with
      | some (s', mv) => takeMove s' mv
      | none => .next s := by
  rcases ha : s.agenda with _ | ⟨mv, rest⟩
  · rcases hm : idleMove s with _ | mv <;> simp [step, nextMove, hc, ha, hm]
  · simp [step, nextMove, hc, ha]

/-- A step with an offered move takes it. -/
theorem step_offered {s : State} {mv : Move} {rest : List Move} (hc : configOk s.cfg = true) (ha : s.agenda = mv :: rest) :
    step s = takeMove { s with agenda := rest } mv := by
  simp [step, hc, ha]

/-- An enabled move other than the frame step. -/
theorem takeMove_enabled {s : State} {mv : Move} (he : enabled s mv = true) (hm : mv ≠ .frame) :
    takeMove s mv = .next (performMove s mv) := by
  cases mv <;> simp_all [takeMove]

/-- All that a step can do, where it answers a next state: the parameters are legal, and it waited, or took its own move in `s`,
or the offered move in `s` without that move. -/
theorem step_next {s t : State} (h : step s = .next t) :
    configOk s.cfg = true ∧
      (t = s ∨ ∃ mv s', (s.agenda = [] ∧ idleMove s = some mv ∧ s' = s ∨
        ∃ rest, s.agenda = mv :: rest ∧ s' = { s with agenda := rest }) ∧ takeMove s' mv = .next t) := by
  rcases hc : configOk s.cfg with _ | _
  · simp [step, hc] at h
  · refine ⟨rfl, ?_⟩
    rw [step_eq hc] at h
    rcases ha : s.agenda with _ | ⟨mv, rest⟩
    · rcases hm : idleMove s with _ | mv
      · simp [nextMove, ha, hm] at h
        exact .inl h.symm
      · simp [nextMove, ha, hm] at h
        exact .inr ⟨mv, s, .inl ⟨rfl, rfl, rfl⟩, h⟩
    · simp [nextMove, ha] at h
      exact .inr ⟨mv, _, .inr ⟨rest, rfl, rfl⟩, h⟩

/-- A property of states that does not look at `agenda` and that every move keeps is kept by every step. -/
theorem step_keeps {P : State → Prop} (hagenda : ∀ s rest, P s → P { s with agenda := rest })
    (hmove : ∀ s t mv, P s → takeMove s mv = .next t → P t) {s t : State} (hp : P s) (h : step s = .next t) : P t := by
  obtain ⟨-, rfl | ⟨mv, s', ⟨-, -, rfl⟩ | ⟨rest, -, rfl⟩, hm⟩⟩ := step_next h
  · exact hp
  · exact hmove _ _ mv hp hm
  · exact hmove _ _ mv (hagenda _ rest hp) hm

end Sys2Proof.Machine
end

