-- ==== Sys2Proof/Laws/Joined.lean ====
section
/-! SUPPORT. What the joined system can do: a move tried, what it puts on the line, and each step of `Joined.step`. -/

namespace Sys2Proof.Machine

/-! ### Moves and what they emit -/

/-- A move that answers a next state is made. -/
theorem tryMove_next {s t : State} {mv : Move} (h : takeMove s mv = .next t) : tryMove s mv = t := by simp [tryMove, h]

/-- All that trying a move can do: a step of the block, or nothing. -/
theorem tryMove_cases (s : State) (mv : Move) :
    (∃ t, takeMove s mv = .next t ∧ tryMove s mv = t) ∨ tryMove s mv = s := by
  rcases h : takeMove s mv with t | f | r
  · exact .inl ⟨t, rfl, tryMove_next h⟩
  · exact .inr (by simp [tryMove, h])
  · exact .inr (by simp [tryMove, h])

/-- A move whose guard does not hold changes nothing. -/
theorem tryMove_disabled {s : State} {mv : Move} (h : enabled s mv = false) : tryMove s mv = s :=
  tryMove_next (by simp [takeMove, h])

/-- An enabled move other than the frame step has its effect. -/
theorem tryMove_enabled {s : State} {mv : Move} (he : enabled s mv = true) (hm : mv ≠ .frame) :
    tryMove s mv = performMove s mv := tryMove_next (takeMove_enabled he hm)

/-- The words a block has emitted since `s` are what its output grew by. -/
theorem emittedSince_append {s t : State} {ws : List Word9} (h : t.out = s.out ++ ws) : emittedSince s t = ws := by
  simp [emittedSince, h]

/-- A block that emitted nothing. -/
@[simp] theorem emittedSince_self (s : State) : emittedSince s s = [] := by simp [emittedSince]

/-! ### Fields of a joined system after a move -/

@[simp] theorem Joined.moveMaster_master (j : Joined) (mv : Move) : (j.moveMaster mv).master = tryMove j.master mv := rfl

@[simp] theorem Joined.moveMaster_peripheral (j : Joined) (mv : Move) : (j.moveMaster mv).peripheral = j.peripheral := rfl

@[simp] theorem Joined.moveMaster_toPeripheral (j : Joined) (mv : Move) :
    (j.moveMaster mv).toPeripheral = j.toPeripheral ++ emittedSince j.master (tryMove j.master mv) := rfl

@[simp] theorem Joined.moveMaster_toMaster (j : Joined) (mv : Move) : (j.moveMaster mv).toMaster = j.toMaster := rfl

@[simp] theorem Joined.movePeripheral_master (j : Joined) (mv : Move) : (j.movePeripheral mv).master = j.master := rfl

@[simp] theorem Joined.movePeripheral_peripheral (j : Joined) (mv : Move) :
    (j.movePeripheral mv).peripheral = tryMove j.peripheral mv := rfl

@[simp] theorem Joined.movePeripheral_toPeripheral (j : Joined) (mv : Move) :
    (j.movePeripheral mv).toPeripheral = j.toPeripheral := rfl

@[simp] theorem Joined.movePeripheral_toMaster (j : Joined) (mv : Move) :
    (j.movePeripheral mv).toMaster = j.toMaster ++ emittedSince j.peripheral (tryMove j.peripheral mv) := rfl

/-! ### Steps -/

/-- All that a step of the joined system can do: nothing, the arrival of the oldest word under way in one direction, or a move of
one block that is no word from the line. -/
theorem Joined.step_cases (j : Joined) (mv : JoinedMove) :
    j.step mv = j ∨
      (∃ w ws, mv = .arriveAtPeripheral ∧ j.toPeripheral = w :: ws ∧
        j.step mv = { j with toPeripheral := ws }.movePeripheral (.rxWord w)) ∨
      (∃ w ws, mv = .arriveAtMaster ∧ j.toMaster = w :: ws ∧
        j.step mv = { j with toMaster := ws }.moveMaster (.rxWord w)) ∨
      (∃ x, mv = .master x ∧ x.isWord = false ∧ j.step mv = j.moveMaster x) ∨
      (∃ x, mv = .peripheral x ∧ x.isWord = false ∧ j.step mv = j.movePeripheral x) := by
  cases mv with
  | arriveAtPeripheral =>
    rcases h : j.toPeripheral with _ | ⟨w, ws⟩
    · exact .inl (by simp [Joined.step, h])
    · exact .inr (.inl ⟨w, ws, rfl, rfl, by simp [Joined.step, h]⟩)
  | arriveAtMaster =>
    rcases h : j.toMaster with _ | ⟨w, ws⟩
    · exact .inl (by simp [Joined.step, h])
    · exact .inr (.inr (.inl ⟨w, ws, rfl, rfl, by simp [Joined.step, h]⟩))
  | master x =>
    rcases h : x.isWord
    · exact .inr (.inr (.inr (.inl ⟨x, rfl, h, by simp [Joined.step, h]⟩)))
    · exact .inl (by simp [Joined.step, h])
  | peripheral x =>
    rcases h : x.isWord
    · exact .inr (.inr (.inr (.inr ⟨x, rfl, h, by simp [Joined.step, h]⟩)))
    · exact .inl (by simp [Joined.step, h])

end Sys2Proof.Machine
end

