-- ==== Sys2Proof/Laws/Line.lean ====
section
/-! SUPPORT. What LINE can do: the receive step in each of its cases, the fields a received word can change, and the transmit
step; and BitLink, what a receiver samples and what a block puts on the line. -/

namespace Sys2Proof.Machine

/-- A byte that does not complete the frame of known length (rule R126). -/
theorem collectFrame_short {s : State} {a : Addr5} {buf : List Byte} {need : Nat} (h : buf.length < need) :
    s.collectFrame a buf need = { s with rx := .collect a buf (some need) } := by
  simp [State.collectFrame, h]

/-- The byte that completes a checksum-valid frame (rules R126, R127). -/
theorem collectFrame_valid {s : State} {a : Addr5} {buf : List Byte} {need : Nat} (h : ¬ buf.length < need)
    (hv : checksumValid buf = true) :
    s.collectFrame a buf need =
      { s with
        rx := .idle
        rxSlot := some (a, buf.take (need - 1))
        log := s.log ++ overwriteEvent s.rxSlot .rxSlot } := by
  simp [State.collectFrame, h, hv, State.deliver]

/-- The byte that completes a corrupted frame (rule R126). -/
theorem collectFrame_invalid {s : State} {a : Addr5} {buf : List Byte} {need : Nat} (h : ¬ buf.length < need)
    (hv : checksumValid buf = false) :
    s.collectFrame a buf need = { s with rx := .idle, log := s.log ++ [.e1 .checksum] } := by
  simp [State.collectFrame, h, hv]

/-- A frame that grows changes the assembler, the slot and the log, and the slot only where it is complete. -/
theorem collectFrame_fields (s : State) (a : Addr5) (buf : List Byte) (need : Nat) :
    ∃ rx slot es, s.collectFrame a buf need = { s with rx := rx, rxSlot := slot, log := s.log ++ es } ∧
      (slot = s.rxSlot ∨ rx = .idle ∧ slot = some (a, buf.take (need - 1)) ∧ checksumValid buf = true ∧
        ¬ buf.length < need) := by
  by_cases h : buf.length < need
  · exact ⟨_, s.rxSlot, [], by rw [collectFrame_short h, List.append_nil], .inl rfl⟩
  · rcases hv : checksumValid buf with _ | _
    · exact ⟨_, _, _, collectFrame_invalid h hv, .inl rfl⟩
    · exact ⟨_, _, _, collectFrame_valid h hv, .inr ⟨rfl, rfl, rfl, h⟩⟩

/-- A mode-flagged word (rule R126). -/
theorem receiveWord_start {s : State} {w : Word9} (h : modeOf w = true) :
    receiveWord s w =
      { s with
        rx := (startFrame s (dataOf w)).1
        log := s.log ++ (truncationEvent s.rx ++ (startFrame s (dataOf w)).2) } := by
  simp [receiveWord, h]

/-- A mode-clear word between frames (rule R126). -/
theorem receiveWord_between {s : State} {w : Word9} (h : modeOf w = false) (hrx : betweenFrames s.rx = true) :
    receiveWord s w = s := by
  rcases hr : s.rx <;> simp_all [receiveWord, betweenFrames]

/-- A mode-clear word in a frame of known length (rule R126). -/
theorem receiveWord_known {s : State} {w : Word9} {a : Addr5} {buf : List Byte} {n : Nat} (h : modeOf w = false)
    (hrx : s.rx = .collect a buf (some n)) : receiveWord s w = s.collectFrame a (buf ++ [dataOf w]) n := by
  simp [receiveWord, h, hrx]

/-- The sub-command byte of a frame (rules R84, R126). -/
theorem receiveWord_sub {s : State} {w : Word9} {a : Addr5} {b0 : Byte} (h : modeOf w = false)
    (hrx : s.rx = .collect a [b0] none) :
    receiveWord s w = match reqLen (commandCode b0) (dataOf w) with
      | none => { s with rx := .skip, log := s.log ++ [.e6 b0 (some (dataOf w))] }
      | some n => s.collectFrame a [b0, dataOf w] n := by
  simp only [receiveWord, h, hrx, Bool.false_eq_true, if_false]
  rfl

/-- Every received word changes at most the assembler, the slot and the log; the slot only where a frame is complete. -/
theorem receiveWord_fields (s : State) (w : Word9) :
    ∃ rx slot es, receiveWord s w = { s with rx := rx, rxSlot := slot, log := s.log ++ es } ∧
      (slot = s.rxSlot ∨ rx = .idle) := by
  rcases hm : modeOf w with _ | _
  · rcases hrx : s.rx with _ | _ | ⟨a, buf, need⟩
    · exact ⟨s.rx, s.rxSlot, [], by rw [receiveWord_between hm (by rw [hrx]; rfl), List.append_nil], .inl rfl⟩
    · exact ⟨s.rx, s.rxSlot, [], by rw [receiveWord_between hm (by rw [hrx]; rfl), List.append_nil], .inl rfl⟩
    · rcases need with _ | n
      · simp only [receiveWord, hm, hrx, Bool.false_eq_true, if_false]
        rcases bufferLength (buf ++ [dataOf w]) with _ | n
        · exact ⟨_, _, _, rfl, .inl rfl⟩
        · obtain ⟨rx, slot, es, h, h'⟩ := collectFrame_fields s a (buf ++ [dataOf w]) n
          exact ⟨rx, slot, es, h, h'.imp id And.left⟩
      · obtain ⟨rx, slot, es, h, h'⟩ := collectFrame_fields s a (buf ++ [dataOf w]) n
        exact ⟨rx, slot, es, by rw [receiveWord_known hm hrx, h], h'.imp id And.left⟩
  · exact ⟨_, _, _, receiveWord_start hm, .inl rfl⟩

/-- The transmit step with a response (rule R129). -/
theorem transmit_some {s : State} {ws : List Word9} (h : s.txSlot = some ws) :
    transmit s = { s with txSlot := none, out := s.out ++ ws } := by
  simp [transmit, h, State.emit]

/-- The transmit step without one. -/
theorem transmit_none {s : State} (h : s.txSlot = none) : transmit s = s := by simp [transmit, h]

/-- All that sampling a word can answer (rule R104): nothing where the line never falls or ends before the ninth bit, else the
samples after the first falling edge. -/
theorem sampleWord_cases (before : Bool) (line : List Bool) :
    (sampleWord before line = none ∧
        (waitFall before line = none ∨ ∃ rest, waitFall before line = some rest ∧ rest.length ≤ 19)) ∨
      ∃ rest m, waitFall before line = some rest ∧ rest[19]? = some m ∧
        sampleWord before line = some ⟨byteOfBits fun i => (sampleAt rest (3 + 2 * i)).getD true, m, rest.drop 19⟩ := by
  rcases hw : waitFall before line with _ | rest
  · exact .inl ⟨by simp [sampleWord, hw], .inl rfl⟩
  · rcases hm : rest[19]? with _ | m
    · exact .inl ⟨by simp [sampleWord, hw, sampleAt, hm], .inr ⟨rest, rfl, List.getElem?_eq_none_iff.1 hm⟩⟩
    · exact .inr ⟨rest, m, rfl, hm, by simp [sampleWord, hw, sampleAt, hm]⟩

/-- The line of a block that has emitted one word more is the line before, the idle time before that word, and its waveform. -/
theorem lineOutput_emit (s : State) (w : Word9) (markSpace : Bool) (idle : Nat → Nat) :
    (s.emit [w]).lineOutput markSpace idle =
      s.lineOutput markSpace idle ++ List.replicate (idle s.out.length) true ++ sendWord9 s.cfg.linkImpl markSpace w := by
  simp [State.lineOutput, State.emit, List.zipIdx_append]

end Sys2Proof.Machine
end

