-- ==== Sys2Proof/Laws/Master.lean ====
section
/-! SUPPORT. What MSEQ can do: starting a transaction, completing one, the response
receive step in each of its cases, and the machine's functions in the terms of the tables of Sys2Proof/Safety.lean. -/

namespace Sys2Proof.Machine

/-- A transaction that starts (rule R241). -/
theorem startTransaction_eq {s : State} {a : Addr5} {m : MInstance} (ha : s.turnAddress = some a)
    (hm : s.mirrorAt a = some m) :
    startTransaction s =
      { s with
        mirror := updateAt a (selectRequest s.cfg a m).2.m s.mirror
        log := s.log ++ (selectRequest s.cfg a m).2.errs
        out := s.out ++ encode a (selectRequest s.cfg a m).1
        phase := .mAwait a (selectRequest s.cfg a m).1 [] } := by
  simp [startTransaction, ha, hm, State.putMirror, State.raise, State.emit]

/-- All that starting a transaction can do. -/
theorem startTransaction_cases (s : State) :
    startTransaction s = s ∨ ∃ a m, s.turnAddress = some a ∧ s.mirrorAt a = some m ∧
      startTransaction s =
        { s with
          mirror := updateAt a (selectRequest s.cfg a m).2.m s.mirror
          log := s.log ++ (selectRequest s.cfg a m).2.errs
          out := s.out ++ encode a (selectRequest s.cfg a m).1
          phase := .mAwait a (selectRequest s.cfg a m).1 [] } := by
  rcases ha : s.turnAddress with _ | a
  · exact .inl (by simp [startTransaction, ha])
  · rcases hm : s.mirrorAt a with _ | m
    · exact .inl (by simp [startTransaction, ha, hm])
    · exact .inr ⟨a, m, rfl, hm, startTransaction_eq ha hm⟩

/-- A selection leaves the mirror but for a host command it removed (rule R242). -/
theorem selectRequest_mirror (cfg : Config) (a : Addr5) (m : MInstance) :
    (selectRequest cfg a m).2.m = m ∨ (selectRequest cfg a m).2.m = { m with hostSlot := none } := by
  rcases hh : m.hs <;> simp only [selectRequest, hh, selectRun, true_or]
  split
  · exact .inl rfl
  · split
    · exact .inl rfl
    · split
      · exact .inl rfl
      · exact .inr rfl

/-- A completed transaction of an address with a mirror (rules R243, R250). -/
theorem complete_eq {s : State} {a : Addr5} {m : MInstance} (req : Instr) (c : ResponseClass)
    (hm : s.mirrorAt a = some m) :
    complete s a req c =
      { s with
        mirror := updateAt a (completeMirror s.cfg a req c m).m s.mirror
        log := s.log ++ (completeMirror s.cfg a req c m).errs
        out := s.out ++ masterAck c
        turn := (s.turn + 1) % s.cfg.addrs.length
        phase := .mIdle } := by
  have hm' : (s.emit (masterAck c)).mirrorAt a = some m := hm
  unfold complete settleMirror
  rw [hm']
  rfl

/-- All that completing a transaction can do. -/
theorem complete_cases (s : State) (a : Addr5) (req : Instr) (c : ResponseClass) :
    (s.mirrorAt a = none ∧ complete s a req c =
      { s with out := s.out ++ masterAck c, turn := (s.turn + 1) % s.cfg.addrs.length, phase := .mIdle }) ∨
    ∃ m, s.mirrorAt a = some m ∧ complete s a req c =
      { s with
        mirror := updateAt a (completeMirror s.cfg a req c m).m s.mirror
        log := s.log ++ (completeMirror s.cfg a req c m).errs
        out := s.out ++ masterAck c
        turn := (s.turn + 1) % s.cfg.addrs.length
        phase := .mIdle } := by
  rcases hm : s.mirrorAt a with _ | m
  · have hm' : (s.emit (masterAck c)).mirrorAt a = none := hm
    refine .inl ⟨rfl, ?_⟩
    unfold complete settleMirror
    rw [hm']
    rfl
  · exact .inr ⟨m, rfl, complete_eq req c hm⟩

/-- A word in M_IDLE (rule R130). -/
theorem receiveResponse_idle {s : State} {w : Word9} (h : s.phase = .mIdle) : receiveResponse s w = s := by
  simp [receiveResponse, h]

/-- The mode-flagged word that ends a response (rule R130). -/
theorem receiveResponse_last {s : State} {w : Word9} {a : Addr5} {req : Instr} {buf : List Word9}
    (h : s.phase = .mAwait a req buf) (hw : modeOf w = true) :
    receiveResponse s w = complete (s.raise (classify (buf ++ [w])).2) a req (classify (buf ++ [w])).1 := by
  simp [receiveResponse, h, hw]

/-- A mode-clear word that leaves room (rule R130). -/
theorem receiveResponse_more {s : State} {w : Word9} {a : Addr5} {req : Instr} {buf : List Word9}
    (h : s.phase = .mAwait a req buf) (hw : modeOf w = false) (hl : buf.length + 1 ≠ s.cfg.maxRspLen) :
    receiveResponse s w = { s with phase := .mAwait a req (buf ++ [w]) } := by
  simp [receiveResponse, h, hw, hl]

/-- The mode-clear word that makes a response overlong (rule R130). -/
theorem receiveResponse_overlong {s : State} {w : Word9} {a : Addr5} {req : Instr} {buf : List Word9}
    (h : s.phase = .mAwait a req buf) (hw : modeOf w = false) (hl : buf.length + 1 = s.cfg.maxRspLen) :
    receiveResponse s w = (complete s a req .invalid).raise [.e1 .overlong] := by
  simp [receiveResponse, h, hw, hl]

/-- All that the response receive step can do. -/
theorem receiveResponse_cases (s : State) (w : Word9) :
    (s.phase = .mIdle ∧ receiveResponse s w = s) ∨
    ∃ a req buf, s.phase = .mAwait a req buf ∧
      ((modeOf w = true ∧
          receiveResponse s w = complete (s.raise (classify (buf ++ [w])).2) a req (classify (buf ++ [w])).1) ∨
        (modeOf w = false ∧ buf.length + 1 ≠ s.cfg.maxRspLen ∧
          receiveResponse s w = { s with phase := .mAwait a req (buf ++ [w]) }) ∨
        (modeOf w = false ∧ buf.length + 1 = s.cfg.maxRspLen ∧
          receiveResponse s w = (complete s a req .invalid).raise [.e1 .overlong])) := by
  rcases hp : s.phase with _ | ⟨a, req, buf⟩
  · exact .inl ⟨rfl, receiveResponse_idle hp⟩
  · refine .inr ⟨a, req, buf, rfl, ?_⟩
    rcases hw : modeOf w with _ | _
    · by_cases hl : buf.length + 1 = s.cfg.maxRspLen
      · exact .inr (.inr ⟨rfl, hl, receiveResponse_overlong hp hw hl⟩)
      · exact .inr (.inl ⟨rfl, hl, receiveResponse_more hp hw hl⟩)
    · exact .inl ⟨rfl, receiveResponse_last hp hw⟩

/-- The response timeout (rule R254). -/
theorem responseTimeout_await {s : State} {a : Addr5} {req : Instr} {buf : List Word9}
    (h : s.phase = .mAwait a req buf) :
    responseTimeout s = complete (s.raise [.e4 a req]) a req .noResponse := by
  simp [responseTimeout, h]

/-- Outside a transaction no response is awaited. -/
theorem responseTimeout_idle {s : State} (h : s.phase = .mIdle) : responseTimeout s = s := by
  simp [responseTimeout, h]

/-- What a completed transaction does to its mirror, for a valid response (rule R250). -/
theorem completeMirror_valid {cfg : Config} {a : Addr5} {req : Instr} {c : ResponseClass} {m : MInstance}
    (hc : c = .ack ∨ ∃ r, c = .data r) :
    completeMirror cfg a req c m =
      if expectedResponse req m c then responseEffect cfg a req { m with misses := 0 } c
      else ⟨restart cfg m .hReset, [.e8 a req c]⟩ := by
  rcases hc with rfl | ⟨r, rfl⟩ <;> rfl

/-- What it does for no valid response (rules R250, R253). -/
theorem completeMirror_miss {cfg : Config} {a : Addr5} {req : Instr} {c : ResponseClass} {m : MInstance}
    (hc : c = .nak ∨ c = .invalid ∨ c = .noResponse) : completeMirror cfg a req c m = missResponse cfg a req m := by
  rcases hc with rfl | rfl | rfl <;> rfl

/-! ### The tables -/

/-- The machine's applicability test is the column of rule R272. -/
theorem applicable_eq_table (c : HostCmd) (m : MInstance) : applicable c m = commandApplies c m := by
  rcases c with _ | ok | _ | _ | _ | _ | _ <;> try cases ok
  all_goals rw [Bool.eq_iff_iff]; simp [applicable, commandApplies]

/-- The request the machine builds is the column of rule R272. -/
theorem hostRequest_eq_table (c : HostCmd) (m : MInstance) : hostRequest m c = commandRequest c m.item := by
  rcases c with _ | ok | _ | _ | _ | _ | _ <;> try cases ok
  all_goals rfl

/-- The events the machine expects of a POLL in H_RUN are those of rule R251. -/
theorem eventExpected_eq_table (r : List Byte) (m : MInstance) :
    (match pollEvent r with
      | some e => eventExpected m e
      | none => false) = expectedEvent m r := by
  rcases r with _ | ⟨x, _ | ⟨y, _ | ⟨z, _ | ⟨u, r⟩⟩⟩⟩
  · rfl
  · by_cases h0 : x = 0x00 <;> by_cases h4 : x = 0x04 <;> by_cases h6 : x = 0x06 <;> by_cases h7 : x = 0x07 <;>
      by_cases hB : x = 0x0B <;> simp_all [pollEvent, eventExpected, expectedEvent] <;> rw [Bool.eq_iff_iff] <;> simp
  · simp [pollEvent, expectedEvent]
  · by_cases h3 : x = 0x03 <;> by_cases h5 : x = 0x05 <;> simp_all [pollEvent, eventExpected, expectedEvent] <;>
      rw [Bool.eq_iff_iff] <;> simp
  · simp [pollEvent, expectedEvent]

/-- The machine's test of a response to a POLL is the table of rule R251. -/
theorem pollExpected_eq_table (m : MInstance) (c : ResponseClass) : pollExpected m c = expectedAnswer .poll m c := by
  rcases c with _ | _ | r | _ | _ <;> rcases hh : m.hs <;>
    simp [pollExpected, expectedAnswer, expectedAck, expectedData, hh]
  · rw [Bool.eq_iff_iff]
    simp
  · exact eventExpected_eq_table r m

/-- The machine's test of a response is the table of rule R251. -/
theorem expectedResponse_eq_table (req : Instr) (m : MInstance) (c : ResponseClass) :
    expectedResponse req m c = expectedAnswer req m c := by
  cases req
  case poll => exact pollExpected_eq_table m c
  case vendCancel => cases c <;> rfl
  case configData => cases c <;> simp [expectedResponse, expectedAnswer, expectedAck, expectedData, isRecord]
  case requestId => cases c <;> simp [expectedResponse, expectedAnswer, expectedAck, expectedData, isRecord]
  case readerCancel =>
    rcases c with _ | _ | r | _ | _ <;> simp [expectedResponse, expectedAnswer, expectedAck, expectedData]
    rw [Bool.eq_iff_iff]
    simp
  all_goals cases c <;> simp [expectedResponse, expectedAnswer, expectedAck, expectedData]

/-- A restarted mirror, field by field (rule R252). -/
theorem restart_eq_restartedAt (cfg : Config) (m : MInstance) (hs : HsStep) : restart cfg m hs = restartedAt cfg m hs := rfl

/-- A missed response, in the terms of rules R253 and R255. -/
theorem missResponse_eq_missed (cfg : Config) (a : Addr5) (req : Instr) (m : MInstance) :
    missResponse cfg a req m = ⟨(missed cfg a req m).1, (missed cfg a req m).2⟩ := by
  unfold missed
  cases req <;> try rfl
  by_cases h : m.misses + 1 < cfg.maxPollMisses
  · simp [missResponse, h]
  · cases ho : m.outSlot <;>
      simp [missResponse, h, Nat.not_lt.1 h, offline, notifyMaster, restart, restartedAt, defaultPcfg, ho,
        overwriteEvent]

end Sys2Proof.Machine
end

