-- ==== Sys2Proof/Laws/PerInstr.lean ====
section
/-! SUPPORT. Statements for every request, one lemma per constructor of Instr. -/

/-- The encoding of a well-formed request has the length rule R82 gives its kind, the checksum counted. -/
def Sys2Proof.Laws.EncodeLength.Statement (r : Sys2Proof.Instr) : Prop :=
  ∀ a : Sys2Proof.Addr5, r.WellFormed →
    (Sys2Proof.requestBytes a r).length + 1 = Sys2Proof.kindLength r.kind

namespace Sys2Proof.Laws

theorem EncodeLength.reset :
    EncodeLength.Statement .reset := fun _ _ => rfl

theorem EncodeLength.configData (fl cols rows info : Byte) :
    EncodeLength.Statement (.configData fl cols rows info) := fun _ _ => rfl

theorem EncodeLength.maxMinPrices (mx mn : U16) :
    EncodeLength.Statement (.maxMinPrices mx mn) := fun _ _ => rfl

theorem EncodeLength.poll :
    EncodeLength.Statement .poll := fun _ _ => rfl

theorem EncodeLength.vendRequest (p n : U16) :
    EncodeLength.Statement (.vendRequest p n) := fun _ _ => rfl

theorem EncodeLength.vendCancel :
    EncodeLength.Statement .vendCancel := fun _ _ => rfl

theorem EncodeLength.vendSuccess (n : U16) :
    EncodeLength.Statement (.vendSuccess n) := fun _ _ => rfl

theorem EncodeLength.vendFailure :
    EncodeLength.Statement .vendFailure := fun _ _ => rfl

theorem EncodeLength.sessionComplete :
    EncodeLength.Statement .sessionComplete := fun _ _ => rfl

theorem EncodeLength.cashSale (p n : U16) :
    EncodeLength.Statement (.cashSale p n) := fun _ _ => rfl

theorem EncodeLength.readerDisable :
    EncodeLength.Statement .readerDisable := fun _ _ => rfl

theorem EncodeLength.readerEnable :
    EncodeLength.Statement .readerEnable := fun _ _ => rfl

theorem EncodeLength.readerCancel :
    EncodeLength.Statement .readerCancel := fun _ _ => rfl

theorem EncodeLength.requestId (mfr serial model sw : List Byte) :
    EncodeLength.Statement (.requestId mfr serial model sw) := by
  intro _ h
  simp only [Instr.WellFormed, Instr.wellFormed, Bool.and_eq_true, beq_iff_eq] at h
  simp [requestBytes, Instr.kind, kindLength, h]

end Sys2Proof.Laws
end

