-- ==== Sys2Proof/Laws/Session.lean ====
section
/-! SUPPORT. The session operations: what a change of state does, the drain in each of its cases, the frame step in the terms of
Sys2Proof/Safety.lean, and what every command keeps. -/

namespace Sys2Proof.Machine

/-! ### Changes of state -/

/-- Setting the state an instance is in changes nothing (rule R213). -/
@[simp] theorem setState_same (i : Instance) : setState i i.st = i := by simp [setState]

@[simp] theorem setState_st (i : Instance) (st : SessionState) : (setState i st).st = st := by
  unfold setState
  split
  · exact Eq.symm ‹_›
  · cases st <;> rfl

@[simp] theorem setState_ctx (i : Instance) (st : SessionState) : (setState i st).ctx = i.ctx := by
  unfold setState
  split
  · rfl
  · cases hs : i.st <;> cases st <;> simp [enterState, leaveState, hs]

@[simp] theorem setState_inq (i : Instance) (st : SessionState) : (setState i st).inq = i.inq := by
  unfold setState
  split
  · rfl
  · cases hs : i.st <;> cases st <;> simp [enterState, leaveState, hs]

@[simp] theorem setState_outSlot (i : Instance) (st : SessionState) : (setState i st).outSlot = i.outSlot := by
  unfold setState
  split
  · rfl
  · cases hs : i.st <;> cases st <;> simp [enterState, leaveState, hs]

/-! ### The drain -/

/-- The pending action the drain reports, in the priority of rule R160. -/
theorem drain_cases (cfg : Config) (i : Instance) :
    (i.pend.oos = true ∧ drain cfg i = drainOos cfg i) ∨
    (i.pend.oos = false ∧ i.pend.rstAck = true ∧ drain cfg i = drainRstAck i) ∨
    (i.pend.oos = false ∧ i.pend.rstAck = false ∧ i.pend.vApp = true ∧ drain cfg i = drainVApp i) ∨
    (i.pend.oos = false ∧ i.pend.rstAck = false ∧ i.pend.vApp = false ∧ i.pend.vDen = true ∧ drain cfg i = drainVDen i) ∨
    (i.pend.oos = false ∧ i.pend.rstAck = false ∧ i.pend.vApp = false ∧ i.pend.vDen = false ∧ i.pend.sEnd = true ∧
      drain cfg i = drainSEnd i) ∨
    (i.pend.oos = false ∧ i.pend.rstAck = false ∧ i.pend.vApp = false ∧ i.pend.vDen = false ∧ i.pend.sEnd = false ∧
      i.pend.sBeg = true ∧ drain cfg i = drainSBeg i) ∨
    (i.pend.oos = false ∧ i.pend.rstAck = false ∧ i.pend.vApp = false ∧ i.pend.vDen = false ∧ i.pend.sEnd = false ∧
      i.pend.sBeg = false ∧ i.pend.sCan = true ∧ drain cfg i = drainSCan i) ∨
    (i.pend = nothingPending ∧ drain cfg i = accept i ackP) := by
  rcases i with ⟨st, ⟨oos, rst, vApp, vDen, sEnd, sBeg, sCan⟩, ctx, ap, ia, va, inq, out⟩
  cases oos <;> cases rst <;> cases vApp <;> cases vDen <;> cases sEnd <;> cases sBeg <;> cases sCan <;>
    simp [drain, nothingPending]

/-! ### The host's calls -/

/-- A vend not yet decided (rules R221, R222). -/
theorem vendUndecided_iff (i : Instance) :
    vendUndecided i = true ↔
      i.st = .vend ∧ i.pend.vApp = false ∧ i.pend.vDen = false ∧ i.approvalSent = false := by
  simp [vendUndecided, and_assoc]

/-! ### The frame step -/

/-- A POLL leaves the idle window as the drain leaves it (rule R210). -/
@[simp] theorem restartIdle_poll (r : CmdResult) : restartIdle .poll r = r.inst := by simp [restartIdle]

/-- A refused command leaves the idle window (rule R210). -/
theorem restartIdle_refused {k : Kind} {r : CmdResult} (h : r.accepted = false) : restartIdle k r = r.inst := by
  simp [restartIdle, h]

/-- An accepted command other than POLL restarts the idle window (rule R210). -/
theorem restartIdle_accepted {k : Kind} {r : CmdResult} (hk : k ≠ .poll) (h : r.accepted = true) :
    restartIdle k r = windowRestarted r.inst := by
  simp [restartIdle, windowRestarted, hk, h]

/-- The events of a response that overwrites another (rule R210). -/
theorem overwriteEvent_eq {α : Type} (old : Option α) (slot : SlotName) :
    overwriteEvent old slot = if old.isSome then [.e9 slot] else [] := by
  cases old <;> rfl

/-- A request with a frame of an owned address, in the terms of `answered`. -/
theorem exec_answered {s : State} {a : Addr5} {i : Instance} (r : Instr) (h : HasFrame s a i) :
    exec r s = .next (answered s a (restartIdle r.kind (ruleOf r s.cfg i)) (ruleOf r s.cfg i).resp
      (ruleOf r s.cfg i).errs) := by
  obtain ⟨⟨f, hf⟩, hi⟩ := h
  rw [exec_owned r hf hi]
  simp [State.answer, answered, overwriteEvent_eq]

/-- A move that is offered and enabled is the step (rules R15, R230, R240). -/
theorem step_of_offered {s : State} {role : Role} {mv : Move} {rest : List Move} (h : Offered s role mv rest) :
    step s = takeMove { s with agenda := rest } mv := step_offered h.1 h.2.2

end Sys2Proof.Machine
end

