-- ==== Sys2Proof/Tests/Slice0.lean ====
section
/-! SUPPORT. Tests. Expected results come from spec/95_test_vectors.md (its section is named beside each group); the witnesses
show states and operands that meet the hypotheses of each statement of the certificate. -/

open Sys2Proof Sys2Proof.Machine

namespace Sys2Proof.Tests

/-! ### States the tests start from -/

/-- The pending flags with none set. -/
def quietInstance (st : SessionState) : Instance := { newInstance with st := st, pend := nothingPending }

/-- The start state IDLE of 95 section 2.4. -/
def idleSession : Instance := { quietInstance .idle with ctx := ⟨500, 0, 0⟩, idleArmed := true }

/-- The start state VEND+vApp of 95 section 2.4. -/
def approvedSession : Instance :=
  { quietInstance .vend with ctx := ⟨500, 150, 3⟩, pend := { nothingPending with vApp := true } }

/-- The start state VEND+aS of 95 section 2.4. -/
def sentSession : Instance := { quietInstance .vend with ctx := ⟨500, 150, 3⟩, approvalSent := true }

/-- The start state VEND-undecided of 95 section 2.4. -/
def undecidedSession : Instance := { quietInstance .vend with ctx := ⟨500, 150, 3⟩, vendArmed := true }

/-- A PERIPHERAL that owns 0x02, whose instance is `i`, with the moves `mvs` to make. -/
def peripheral (i : Instance) (mvs : List Move) : State := { State.reset with inst := [(2, i)], agenda := mvs }

/-- The same, with the frame `f` handed to PROTO. -/
def framed (i : Instance) (f : List Byte) : State := { peripheral i [] with rxSlot := some (2, f) }

/-- The parameters of a MASTER that polls 0x02. -/
def masterConfig : Config := { Config.standard with role := .master }

/-- The mirror at the end of program 1 of 95, in the session state `st`. -/
def runningMirror (st : SessionState) : MInstance :=
  { newMirror masterConfig with mst := st, hs := .hRun, pcfg := ⟨1, 2, 5, 0⟩ }

/-- A MASTER whose mirror of 0x02 is `m`, between transactions. -/
def master (m : MInstance) (mvs : List Move) : State :=
  { State.construct masterConfig with mirror := [(2, m)], agenda := mvs }

/-- A MASTER that awaits the answer to `r`, with the words `buf` received. -/
def awaiting (m : MInstance) (r : Instr) (buf : List Word9) (mvs : List Move) : State :=
  { master m mvs with phase := .mAwait 2 r buf }

/-- The instance, the response and the log after a request. -/
def afterRequest (r : Instr) (i : Instance) : Option (Option Instance × Option (List Word9) × List ErrorEvent) :=
  match exec r (framed i []) with
  | .next t => some (t.instanceAt 2, t.txSlot, t.log)
  | _ => none

/-- The mirror, the words sent and the log after one step of a MASTER. -/
def afterStep (s : State) : Option (Option MInstance × List Word9 × List ErrorEvent) :=
  match step s with
  | .next t => some (t.mirrorAt 2, t.out, t.log)
  | _ => none

/-- The assembler, the slot and the log after the received words `ws` of 95 section 2.3, from RX_IDLE. -/
def afterWords (ws : List Word9) : RxPhase × Option (Addr5 × List Byte) × List ErrorEvent :=
  let t := ws.foldl receiveWord (peripheral newInstance [])
  (t.rx, t.rxSlot, t.log)

/-- The text fields of `VMC_ID` in 95 section 0. -/
def sampleRequestId : Instr :=
  .requestId [0x56, 0x4D, 0x43] [0x30, 0x30, 0x30, 0x30, 0x30, 0x30, 0x30, 0x30, 0x30, 0x30, 0x30, 0x32]
    [0x4D, 0x41, 0x53, 0x54, 0x45, 0x52, 0x20, 0x20, 0x20, 0x20, 0x20, 0x20] [0x00, 0x01]

/-! ### WellFormed: each check refuses a term that breaks it alone -/

theorem test_requestId_manufacturer_length :
    (Instr.requestId [1, 2] (List.replicate 12 0) (List.replicate 12 0) [0, 1]).wellFormed = false := by decide
theorem test_requestId_serial_length :
    (Instr.requestId [1, 2, 3] (List.replicate 13 0) (List.replicate 12 0) [0, 1]).wellFormed = false := by decide
theorem test_requestId_model_length :
    (Instr.requestId [1, 2, 3] (List.replicate 12 0) (List.replicate 11 0) [0, 1]).wellFormed = false := by decide
theorem test_requestId_version_length :
    (Instr.requestId [1, 2, 3] (List.replicate 12 0) (List.replicate 12 0) []).wellFormed = false := by decide
theorem test_requestId_wellFormed : sampleRequestId.wellFormed = true := by decide

/-! ### Decoding and encoding: the frames of 95 section 0, written out -/

theorem test_decode_reset : decode [0x10] = .ok .reset := by decide
theorem test_decode_configData :
    decode [0x11, 0x00, 0x01, 0x02, 0x03, 0x04] = .ok (.configData 1 2 3 4) := by decide
theorem test_decode_maxMinPrices :
    decode [0x11, 0x01, 0x00, 0xC8, 0x00, 0x64] = .ok (.maxMinPrices 200 100) := by decide
theorem test_decode_poll : decode [0x12] = .ok .poll := by decide
theorem test_decode_vendRequest :
    decode [0x13, 0x00, 0x00, 0x96, 0x00, 0x03] = .ok (.vendRequest 150 3) := by decide
theorem test_decode_vendCancel : decode [0x13, 0x01] = .ok .vendCancel := by decide
theorem test_decode_vendSuccess : decode [0x13, 0x02, 0x00, 0x03] = .ok (.vendSuccess 3) := by decide
theorem test_decode_vendFailure : decode [0x13, 0x03] = .ok .vendFailure := by decide
theorem test_decode_sessionComplete : decode [0x13, 0x04] = .ok .sessionComplete := by decide
theorem test_decode_cashSale : decode [0x13, 0x05, 0x00, 0x64, 0x00, 0x07] = .ok (.cashSale 100 7) := by decide
theorem test_decode_readerDisable : decode [0x14, 0x00] = .ok .readerDisable := by decide
theorem test_decode_readerEnable : decode [0x14, 0x01] = .ok .readerEnable := by decide
theorem test_decode_readerCancel : decode [0x14, 0x02] = .ok .readerCancel := by decide
theorem test_decode_requestId :
    decode [0x17, 0x00, 0x56, 0x4D, 0x43, 0x30, 0x30, 0x30, 0x30, 0x30, 0x30, 0x30, 0x30, 0x30, 0x30, 0x30, 0x32,
      0x4D, 0x41, 0x53, 0x54, 0x45, 0x52, 0x20, 0x20, 0x20, 0x20, 0x20, 0x20, 0x00, 0x01] = .ok sampleRequestId := by
  decide
theorem test_decode_refuses_unassigned :
    decode [0x15, 0x00] = .error .unassignedCommand ∧ decode [0x11, 0x02] = .error .unassignedSub ∧
      decode [0x13, 0x01, 0x00] = .error .wrongLength ∧ decode [] = .error .emptyFrame := by decide

theorem test_encode_vendRequest :
    encode 2 (.vendRequest 150 3) = [0x113, 0x000, 0x000, 0x096, 0x000, 0x003, 0x0AC] := by decide
theorem test_encode_maxMinPrices :
    encode 2 (.maxMinPrices 0xFFFF 0) = [0x111, 0x001, 0x0FF, 0x0FF, 0x000, 0x000, 0x010] := by decide
theorem test_encode_cashSale :
    encode 2 (.cashSale 100 7) = [0x113, 0x005, 0x000, 0x064, 0x000, 0x007, 0x083] := by decide
theorem test_encode_readerCancel : encode 2 .readerCancel = [0x114, 0x002, 0x016] := by decide
theorem test_encode_reset_at_0C : encode 0x0C .reset = [0x160, 0x060] := by decide
theorem test_encode_requestId :
    encode 2 sampleRequestId = [0x117, 0x000, 0x056, 0x04D, 0x043, 0x030, 0x030, 0x030, 0x030, 0x030, 0x030, 0x030,
      0x030, 0x030, 0x030, 0x030, 0x032, 0x04D, 0x041, 0x053, 0x054, 0x045, 0x052, 0x020, 0x020, 0x020, 0x020, 0x020,
      0x020, 0x000, 0x001, 0x0CC] := by decide

/-- The table's selector of VEND/VEND_SUCCESS is `(b0 << 8) | b1`: 0x1302, its operand bytes zero. -/
theorem test_decodeTableWord_vendSuccess : decodeTableWord 16 0x1302 = some (.vendSuccess 0) := by decide
theorem test_decodeTableWord_poll : decodeTableWord 16 0x1200 = some .poll := by decide
theorem test_decodeTableWord_unassigned : decodeTableWord 16 0x1500 = none := by decide

/-! ### Receiving: 95 section 2.3 -/

theorem test_receive_poll : afterWords [0x112, 0x012] = (.idle, some (2, [0x12]), []) := by decide
theorem test_receive_other_address : afterWords [0x162, 0x062] = (.skip, none, [.e2 0x0C]) := by decide
theorem test_receive_unassigned_command : afterWords [0x115, 0x015] = (.skip, none, [.e6 0x15 none]) := by decide
theorem test_receive_unassigned_sub :
    afterWords [0x111, 0x002, 0x013] = (.skip, none, [.e6 0x11 (some 0x02)]) := by decide
theorem test_receive_bad_checksum : afterWords [0x112, 0x013] = (.idle, none, [.e1 .checksum]) := by decide
theorem test_receive_truncated :
    afterWords [0x113, 0x000, 0x112, 0x012] = (.idle, some (2, [0x12]), [.e1 .truncated]) := by decide
/-- 95 section 2.9, the residual case of rule R132. -/
theorem test_receive_shorter_kind :
    afterWords [0x114, 0x000, 0x014, 0x000, 0x000, 0x000, 0x027] = (.idle, some (2, [0x14, 0x00]), []) := by decide

/-! ### The requests: 95 sections 1 and 2.4 to 2.6, one step each -/

/-- Program 4, row 5. -/
theorem test_reset_in_approved_vend :
    afterRequest .reset { sentSession with ctx := ⟨200, 120, 9⟩ } =
      some (some { newInstance with outSlot := some (.saleCompleted 120 9) }, some [0x100], []) := by decide
/-- Scenario A. -/
theorem test_configData_in_inactive :
    afterRequest (.configData 1 0 0 0) (quietInstance .inactive) =
      some (some (quietInstance .disabled),
        some [0x001, 0x001, 0x000, 0x000, 0x001, 0x002, 0x005, 0x000, 0x10A], []) := by decide
theorem test_maxMinPrices_in_disabled :
    afterRequest (.maxMinPrices 200 100) (quietInstance .disabled) =
      some (some (quietInstance .disabled), some [0x100], []) := by decide
theorem test_maxMinPrices_in_inactive :
    afterRequest (.maxMinPrices 200 100) (quietInstance .inactive) =
      some (some { quietInstance .inactive with pend := { nothingPending with oos := true } }, some [0x100],
        [.e3 .maxMinPrices .inactive]) := by decide
/-- Scenario C. -/
theorem test_poll_begins_session :
    afterRequest .poll { quietInstance .enabled with ctx := ⟨500, 0, 0⟩, pend := { nothingPending with sBeg := true } } =
      some (some idleSession, some [0x003, 0x001, 0x0F4, 0x1F8], []) := by decide
/-- The priority law, section 1.4. -/
theorem test_poll_priority :
    afterRequest .poll { newInstance with pend := { nothingPending with oos := true, rstAck := true } } =
      some (some newInstance, some [0x00B, 0x10B], []) := by decide
/-- Scenario D. -/
theorem test_vendRequest_approved :
    afterRequest (.vendRequest 150 3) idleSession = some (some approvedSession, some [0x100], []) := by decide
/-- Section 2.5: price 600 above the funds 500. -/
theorem test_vendRequest_denied :
    afterRequest (.vendRequest 600 3) idleSession =
      some (some { approvedSession with ctx := ⟨500, 600, 3⟩, pend := { nothingPending with vDen := true } },
        some [0x100], []) := by decide
theorem test_vendCancel_before_approval :
    afterRequest .vendCancel approvedSession =
      some (some { approvedSession with pend := { nothingPending with vDen := true } }, some [0x100], []) := by decide
theorem test_vendCancel_after_approval :
    (afterRequest .vendCancel sentSession).map (fun x => x.2.2) = some [.e3 .vendCancel .vend] := by decide
/-- Scenario D. -/
theorem test_vendSuccess_notifies :
    afterRequest (.vendSuccess 3) sentSession =
      some (some { idleSession with ctx := ⟨500, 150, 3⟩, outSlot := some (.saleCompleted 150 3) }, some [0x100], []) := by
  decide
theorem test_vendFailure_ends_the_vend :
    afterRequest .vendFailure approvedSession =
      some (some { idleSession with ctx := ⟨500, 150, 3⟩ }, some [0x100], []) := by decide
theorem test_sessionComplete_in_idle :
    afterRequest .sessionComplete idleSession =
      some (some { idleSession with pend := { nothingPending with sEnd := true }, idleArmed := false },
        some [0x100], []) := by decide
theorem test_cashSale_in_disabled :
    afterRequest (.cashSale 100 7) (quietInstance .disabled) =
      some (some (quietInstance .disabled), some [0x100], []) := by decide
theorem test_readerDisable_withdraws_begin :
    afterRequest .readerDisable { quietInstance .enabled with pend := { nothingPending with sBeg := true } } =
      some (some (quietInstance .disabled), some [0x100], []) := by decide
/-- Scenario B. -/
theorem test_readerEnable_in_disabled :
    afterRequest .readerEnable (quietInstance .disabled) =
      some (some (quietInstance .enabled), some [0x100], []) := by decide
theorem test_readerCancel_in_disabled :
    afterRequest .readerCancel (quietInstance .disabled) =
      some (some (quietInstance .disabled), some [0x008, 0x108], []) := by decide
theorem test_requestId_in_disabled :
    afterRequest sampleRequestId (quietInstance .disabled) =
      some (some (quietInstance .disabled), some [0x009, 0x058, 0x059, 0x05A, 0x030, 0x030, 0x030, 0x030, 0x030, 0x030,
        0x030, 0x030, 0x030, 0x030, 0x030, 0x031, 0x043, 0x041, 0x053, 0x048, 0x04C, 0x045, 0x053, 0x053, 0x020, 0x020,
        0x020, 0x020, 0x001, 0x000, 0x12C], []) := by decide

/-- The first step after `withFetchWord` runs the request on the reset state. -/
theorem test_withFetchWord_runs_vendCancel :
    step (State.reset.withFetchWord 16 0x1301) = exec .vendCancel { State.reset with rxSlot := some (2, [0x13, 0x01]) } := by
  rfl

/-! ### Host calls and timers: 95 sections 2.7 and 2.8 -/

theorem test_host_call_overflow :
    step (peripheral { quietInstance .enabled with inq := some (.requestSession 500) } [.hostCall 2 (.requestSession 700)]) =
      .next { peripheral { quietInstance .enabled with inq := some (.requestSession 500) } [] with
        log := [.e5 2 (.requestSession 700)], results := [(2, .dropped)] } := by rfl
theorem test_consume_ignored_in_disabled :
    step (peripheral { quietInstance .disabled with inq := some .approveVend } [.consume 2]) =
      .next { peripheral (quietInstance .disabled) [] with log := [.e10 .approveVend .disabled] } := by rfl
theorem test_idle_timeout :
    step (peripheral idleSession [.idleTimeout 2]) =
      .next (peripheral { idleSession with pend := { nothingPending with sCan := true }, idleArmed := false } []) := by
  rfl

/-! ### The master: 95 sections 2.10 to 2.12 -/

theorem test_master_learns_the_configuration :
    afterStep (awaiting { newMirror masterConfig with hs := .hConfig } (.configData 1 0 0 0)
        [0x001, 0x001, 0x000, 0x000, 0x001, 0x002, 0x005, 0x000] [.rxWord 0x10A]) =
      some (some { newMirror masterConfig with mst := .disabled, hs := .hMaxMin, pcfg := ⟨1, 2, 5, 0⟩ }, [0x000], []) := by
  decide
theorem test_master_nak_counts :
    afterStep (awaiting (runningMirror .enabled) .poll [] [.rxWord 0x1FF]) =
      some (some { runningMirror .enabled with misses := 1 }, [], []) := by decide
theorem test_master_bad_link_word :
    afterStep (awaiting (runningMirror .enabled) .poll [] [.rxWord 0x105]) =
      some (some { runningMirror .enabled with misses := 1 }, [], [.e1 .badLinkWord]) := by decide
theorem test_master_overlong :
    afterStep (awaiting (runningMirror .enabled) .poll (List.replicate 35 0) [.rxWord 0]) =
      some (some { runningMirror .enabled with misses := 1 }, [], [.e1 .overlong]) := by decide
theorem test_master_unassigned_response :
    afterStep (awaiting (runningMirror .enabled) .poll [0x00A] [.rxWord 0x10A]) =
      some (some (newMirror masterConfig), [0x000], [.e8 2 .poll (.data [0x0A])]) := by decide
theorem test_master_third_miss :
    afterStep (awaiting { runningMirror .enabled with misses := 2 } .poll [] [.rspTimeout]) =
      some (some { newMirror masterConfig with outSlot := some .peripheralOffline }, [], [.e4 2 .poll, .e7 2]) := by decide
theorem test_master_inapplicable_command :
    afterStep (master { runningMirror .enabled with hostSlot := some (.vendRequest 150 3) } [.start]) =
      some (some (runningMirror .enabled), [0x112, 0x012], [.e10Master 2 (.vendRequest 150 3) .enabled]) := by
  decide

/-! ### BitLink: the rows `112` and `19B` of 95 section 2.2 -/

theorem test_wordLevels_112 :
    wordLevels 0x112 = [false, false, true, false, false, true, false, false, false, true, true] := by decide
theorem test_parity_19B :
    sendParityEvenOdd 0x19B = .even ∧ [UartParity.space, .mark, .even, .odd].map (parityError · 0x19B) =
      [true, false, false, true] := by decide

/-- The row `19B` of 95 section 2.2: a UART of each fixed receive setting reads the word off the line. -/
theorem test_receiveWord9_19B :
    [UartParity.space, .mark, .even, .odd].map
        (fun p => (receiveWord9 .parityUart p true (sendWord9 .bitbang true 0x19B)).map Prod.fst) =
      List.replicate 4 (some 0x19B) := by decide

/-! ### Witnesses: states and operands that meet the hypotheses of the statements -/

theorem configOk_standard : configOk Config.standard = true := by decide
theorem configOk_master : configOk masterConfig = true := by decide

theorem offered_peripheral (i : Instance) (mv : Move) : Offered (peripheral i [mv]) .peripheral mv [] :=
  ⟨configOk_standard, rfl, rfl⟩

theorem hasFrame_framed (i : Instance) (f : List Byte) : HasFrame (framed i f) 2 i := ⟨⟨f, rfl⟩, rfl⟩

/-- The next step is PROTO's frame step on the frame `f`. -/
def onFrame (i : Instance) (f : List Byte) : State := { framed i f with agenda := [.frame] }

theorem offered_onFrame (i : Instance) (f : List Byte) : Offered (onFrame i f) .peripheral .frame [] :=
  ⟨configOk_standard, rfl, rfl⟩

theorem offered_master (m : MInstance) (mv : Move) : Offered (master m [mv]) .master mv [] := ⟨configOk_master, rfl, rfl⟩

theorem offered_awaiting (m : MInstance) (r : Instr) (buf : List Word9) (mv : Move) :
    Offered (awaiting m r buf [mv]) .master mv [] := ⟨configOk_master, rfl, rfl⟩

/-! Parameters, construction, invariants. -/

theorem witness_IllegalParametersAreRefused_legal :
    (Config.standard.ownAddrs ≠ [] ∧ Config.standard.ownAddrs.Nodup ∧ 0 ∉ Config.standard.ownAddrs) ∧
      (Config.standard.addrs ≠ [] ∧ Config.standard.addrs.Nodup ∧ 0 ∉ Config.standard.addrs) ∧
      Config.standard.capScale ≠ 0 ∧ Config.standard.idMfr.length = 3 ∧ Config.standard.idSerial.length = 12 ∧
      Config.standard.idModel.length = 12 ∧ Config.standard.idSwver.length = 2 ∧ Config.standard.vmcId.length = 29 := by
  decide
theorem witness_IllegalParametersAreRefused_illegal :
    configOk { Config.standard with ownAddrs := [] } = false ∧
      configOk { Config.standard with ownAddrs := [2, 2] } = false ∧
      configOk { Config.standard with addrs := [2, 0] } = false ∧
      configOk { Config.standard with capScale := 0 } = false ∧
      configOk { Config.standard with vmcId := Config.standard.vmcId ++ [0] } = false := by decide
theorem witness_PeripheralAfterConstruction :
    Config.standard.role = .peripheral ∧ (2 : Addr5) ∈ Config.standard.ownAddrs := by decide
theorem witness_MasterAfterConstruction : masterConfig.role = .master ∧ (2 : Addr5) ∈ masterConfig.addrs := by decide
theorem witness_ConstructionMeetsTheInvariants :
    (configOk Config.standard = true ∧ Config.standard.role = .peripheral) ∧
      (configOk masterConfig = true ∧ masterConfig.role = .master ∧ 0 < masterConfig.maxRspLen) ∧
      masterConfig.addrs = [2] ∧ Config.standard.ownAddrs = [2] ∧ 31 ≤ masterConfig.maxRspLen := by decide

theorem sessionInv_idleSession : SessionInv idleSession :=
  ⟨⟨by decide, by decide, by decide, by decide, by decide, by decide, by decide, by decide⟩,
    ⟨by decide, by decide, by decide, by decide⟩, by decide⟩

theorem sessionsOk_peripheral (mvs : List Move) : SessionsOk (peripheral idleSession mvs) := by
  intro p hp
  obtain rfl : p = (2, idleSession) := by simpa [peripheral] using hp
  exact sessionInv_idleSession

/-- A step from a session that meets the invariants: the idle window ends. -/
theorem witness_EveryStepKeepsTheSessionInvariants :
    SessionsOk (peripheral idleSession [.idleTimeout 2]) ∧
      step (peripheral idleSession [.idleTimeout 2]) =
        .next (peripheral { idleSession with pend := { nothingPending with sCan := true }, idleArmed := false } []) :=
  ⟨sessionsOk_peripheral _, rfl⟩

/-- A PERIPHERAL in the middle of a frame, with an older one handed over. -/
def busyLine : State := { onFrame idleSession [0x12] with rx := .collect 2 [0x13, 0x00] (some 7) }

theorem lineInv_busyLine : LineInv busyLine where
  tables := ⟨by decide, fun _ => ⟨rfl, rfl⟩, fun h => (nomatch h), by decide⟩
  rx := ⟨by decide, by decide, by decide, by decide, .inr ⟨0x13, 0x00, [], rfl, by decide, by decide⟩⟩
  slot := by
    intro a f h
    obtain ⟨rfl, rfl⟩ : (2 : Addr5) = a ∧ [(0x12 : Byte)] = f := by simpa [busyLine, onFrame, framed] using h
    exact ⟨by decide, by decide, .poll, by decide⟩

theorem witness_EveryStepKeepsTheLineInvariant :
    LineInv busyLine ∧ step busyLine =
      .next { busyLine with agenda := [], rxSlot := none, txSlot := some [0x100] } := ⟨lineInv_busyLine, rfl⟩

theorem mirrorInv_running : MirrorInv masterConfig (runningMirror .enabled) :=
  ⟨by decide, by decide, by decide, by decide, by decide, by decide⟩

/-- A MASTER in the middle of the response to a POLL. -/
def busyMaster : State := awaiting (runningMirror .enabled) .poll [0x003] [.rxWord 0x001]

theorem masterInv_busyMaster : MasterInv busyMaster where
  tables := ⟨by decide, fun h => (nomatch h), fun _ => ⟨rfl, rfl⟩, by decide⟩
  role := rfl
  room := by decide
  mirrors := by
    intro p hp
    obtain rfl : p = (2, runningMirror .enabled) := by simpa [busyMaster, awaiting, master] using hp
    exact mirrorInv_running
  phase := by
    intro a req buf h
    obtain ⟨rfl, rfl, rfl⟩ : (2 : Addr5) = a ∧ Instr.poll = req ∧ [(0x003 : Word9)] = buf := by
      simpa [busyMaster, awaiting] using h
    refine ⟨by decide, fun m hm => ?_, by decide, by decide⟩
    obtain rfl : runningMirror .enabled = m := Option.some.inj hm
    exact .inl rfl

theorem witness_EveryStepKeepsTheMasterInvariant :
    MasterInv busyMaster ∧
      step busyMaster = .next (awaiting (runningMirror .enabled) .poll [0x003, 0x001] []) := ⟨masterInv_busyMaster, rfl⟩
theorem witness_NoStepFailsUnderTheInvariants :
    (LineInv busyLine ∨ MasterInv busyLine) ∧ (LineInv busyMaster ∨ MasterInv busyMaster) :=
  ⟨.inl lineInv_busyLine, .inr masterInv_busyMaster⟩
theorem witness_ParametersStayAndObservationsGrow :
    step (peripheral { idleSession with outSlot := some .sessionEnded } [.hostRead 2]) =
      .next { peripheral idleSession [] with seen := [.peripheral 2 .sessionEnded] } := by rfl

/-! Encoding and the line. -/

theorem witness_DecodeGivesBackTheEncodedRequest : sampleRequestId.WellFormed := by decide
theorem witness_DecodedFramesAreEncodings : decode (0x13 :: [0x02, 0x00, 0x03]) = .ok (.vendSuccess 3) := by decide
theorem witness_UnassignedEncodingsSelectNoKind :
    commandCode 0x15 = 5 ∧ commandCode 0x16 = 6 ∧ (commandCode 0x11 = 1 ∧ (0x02 : Byte) ≤ 0x02) ∧
      (commandCode 0x13 = 3 ∧ (0x06 : Byte) ≤ 0x06) ∧ (commandCode 0x14 = 4 ∧ (0x03 : Byte) ≤ 0x03) ∧
      (commandCode 0x17 = 7 ∧ (0x01 : Byte) ≤ 0x01) ∧ commandCode 0x13 = 3 ∧ ¬ (0x06 : Byte) ≤ 0x05 := by decide
theorem witness_LineDeliversAnEncodedRequest :
    (2 : Addr5) ∈ busyLine.cfg.ownAddrs ∧ sampleRequestId.WellFormed ∧ busyLine.rxSlot.isSome = true := by decide
theorem witness_OneChangedByteFailsTheChecksum :
    checksumValid [0x13, 0x02, 0x00, 0x03, 0x18] = true ∧ 4 < [0x13, 0x02, 0x00, 0x03, (0x18 : Byte)].length ∧
      [0x13, 0x02, 0x00, 0x03, (0x18 : Byte)][4]? ≠ some 0x19 := by decide
theorem witness_CompensatingChangesPassTheChecksum :
    checksumValid ([0x13] ++ 0x02 :: [0x00] ++ 0x03 :: [] ++ [0x18]) = true := by decide
theorem witness_ResponsesAreReadBack : [(0x00 : Byte)] ≠ [] := by decide

theorem witness_ModeFlaggedWordStartsAFrame (d : Byte) :
    Offered (peripheral newInstance [.rxWord (mkWord true d)]) .peripheral (.rxWord (mkWord true d)) [] ∧
      addressOf 0x60 ∉ Config.standard.ownAddrs ∧ addressOf 0x10 ∈ Config.standard.ownAddrs ∧
      addressOf 0x17 ∈ Config.standard.ownAddrs ∧ commandCode 0x15 = 5 ∧ commandCode 0x10 = 0 ∧ commandCode 0x17 = 7 :=
  ⟨offered_peripheral _ _, by decide, by decide, by decide, by decide, by decide, by decide⟩

/-- A PERIPHERAL that has collected `buf` of a frame of length `need` and receives the mode-clear word `d`. -/
def collecting (buf : List Byte) (need : Option Nat) (d : Byte) : State :=
  { peripheral newInstance [.rxWord (mkWord false d)] with rx := .collect 2 buf need }

theorem offered_collecting (buf : List Byte) (need : Option Nat) (d : Byte) :
    Offered (collecting buf need d) .peripheral (.rxWord (mkWord false d)) [] := ⟨configOk_standard, rfl, rfl⟩

theorem witness_ModeClearWordExtendsTheFrame_ignored :
    Offered (peripheral newInstance [.rxWord (mkWord false 0)]) .peripheral (.rxWord (mkWord false 0)) [] ∧
      (peripheral newInstance [.rxWord (mkWord false 0)]).rx = .idle := ⟨offered_peripheral _ _, rfl⟩
theorem witness_ModeClearWordExtendsTheFrame_unassigned :
    Offered (collecting [0x13] none 0x06) .peripheral (.rxWord (mkWord false 0x06)) [] ∧
      reqLen (commandCode 0x13) 0x06 = none := ⟨offered_collecting _ _ _, by decide⟩
/-- The sub-command byte of VEND_CANCEL selects length 3, and the last word of a frame completes it, whether the checksum is
right (0x014) or wrong (0x015). -/
theorem witness_ModeClearWordExtendsTheFrame_extends :
    Offered (collecting [0x13] none 0x01) .peripheral (.rxWord (mkWord false 0x01)) [] ∧
      reqLen (commandCode 0x13) 0x01 = some 3 ∧
      Offered (collecting [0x13, 0x01] (some 3) 0x14) .peripheral (.rxWord (mkWord false 0x14)) [] ∧
      checksumValid ([0x13, 0x01] ++ [0x14]) = true ∧
      Offered (collecting [0x13, 0x01] (some 3) 0x15) .peripheral (.rxWord (mkWord false 0x15)) [] ∧
      checksumValid ([0x13, 0x01] ++ [0x15]) = false :=
  ⟨offered_collecting _ _ _, by decide, offered_collecting _ _ _, by decide, offered_collecting _ _ _, by decide⟩
theorem witness_ReceivedWordsTouchNoSession :
    Offered (collecting [0x12] (some 2) 0x12) .peripheral (.rxWord (mkWord false 0x12)) [] := offered_collecting _ _ _

/-- A PERIPHERAL with a response to send, LINE in `rx`. -/
def responding (ws : Option (List Word9)) (rx : RxPhase) : State :=
  { peripheral newInstance [.transmit] with txSlot := ws, rx := rx }

theorem witness_TransmitSendsTheWholeResponse (ws : Option (List Word9)) (rx : RxPhase) :
    Offered (responding ws rx) .peripheral .transmit [] ∧ (responding ws rx).txSlot = ws ∧ (responding ws rx).rx = rx :=
  ⟨⟨configOk_standard, rfl, rfl⟩, rfl, rfl⟩
theorem witness_NoUnsolicitedTransmission :
    step (onFrame newInstance [0x12]) =
        .next { framed { newInstance with pend := nothingPending } [] with rxSlot := none, txSlot := some [0x000, 0x100] } ∧
      step (responding (some [0x100]) .skip) =
        .next { responding none .skip with agenda := [], out := [0x100] } := ⟨rfl, rfl⟩

/-! The frame step. -/

theorem witness_FrameStepRunsTheDecodedRequest :
    Offered (onFrame sentSession [0x13, 0x02, 0x00, 0x03]) .peripheral .frame [] ∧
      decode [0x13, 0x02, 0x00, 0x03] = .ok (.vendSuccess 3) := ⟨offered_onFrame _ _, by decide⟩
theorem witness_UnassignedFrameFaults :
    Offered (onFrame newInstance [0x15]) .peripheral .frame [] ∧ decode [0x15] = .error .unassignedCommand :=
  ⟨offered_onFrame _ _, by decide⟩
theorem witness_RefusedRequestsAreOutOfSequence :
    HasFrame (framed (quietInstance .inactive) []) 2 (quietInstance .inactive) ∧
      accepts (.configData 1 0 0 0) (quietInstance .vend) = false ∧
      ∀ r ∈ [.maxMinPrices 1 1, .vendRequest 1 1, .vendCancel, .vendSuccess 1, .vendFailure, .sessionComplete,
        .cashSale 1 1, .readerDisable, .readerEnable, .readerCancel, sampleRequestId],
        accepts r (quietInstance .inactive) = false := ⟨hasFrame_framed _ _, by decide, by decide⟩
theorem witness_RetransmissionChangesNothing :
    Instr.vendSuccess 3 ≠ .poll ∧ (framed sentSession [0x13, 0x02, 0x00, 0x03]).rxSlot = some (2, [0x13, 0x02, 0x00, 0x03]) ∧
      (framed sentSession [0x13, 0x02, 0x00, 0x03]).instanceAt 2 ≠ none ∧
      exec (.vendSuccess 3) (framed sentSession [0x13, 0x02, 0x00, 0x03]) =
        .next (answered (framed sentSession [0x13, 0x02, 0x00, 0x03]) 2
          { idleSession with ctx := ⟨500, 150, 3⟩, outSlot := some (.saleCompleted 150 3) } [0x100] []) :=
  ⟨by decide, rfl, by decide, rfl⟩
theorem witness_OnlyResetYieldsInactive :
    step (onFrame (quietInstance .enabled) [0x10]) =
        .next { framed newInstance [] with rxSlot := none, txSlot := some [0x100] } ∧
      (quietInstance .enabled).st ≠ .inactive ∧ newInstance.st = .inactive ∧ Config.standard.oosToInactive = false :=
  ⟨rfl, by decide, rfl, rfl⟩

/-! The requests. `hasFrame_framed` gives `HasFrame` for every instance; what remains is each clause's state. -/

theorem witness_ResetClearsTheSession :
    HasFrame (framed sentSession [0x10]) 2 sentSession ∧ sentSession.st = .vend ∧ sentSession.approvalSent = true :=
  ⟨hasFrame_framed _ _, rfl, rfl⟩
theorem witness_ConfigDataAnswersTheCapabilityRecord :
    HasFrame (framed (quietInstance .inactive) []) 2 (quietInstance .inactive) ∧
      ((quietInstance .inactive).st = .inactive ∨ (quietInstance .inactive).st = .disabled) :=
  ⟨hasFrame_framed _ _, .inl rfl⟩
theorem witness_PricesAndCashSalesAreAcknowledged :
    HasFrame (framed (quietInstance .enabled) []) 2 (quietInstance .enabled) ∧
      ((quietInstance .enabled).st = .disabled ∨ (quietInstance .enabled).st = .enabled) ∧
      (quietInstance .enabled).st ≠ .inactive := ⟨hasFrame_framed _ _, .inr rfl, by decide⟩

/-- `oos` beside a flag of lower priority. -/
def outOfSequence : Instance := { newInstance with pend := { newInstance.pend with oos := true } }

theorem witness_PollReportsSequenceAndReset :
    HasFrame (framed outOfSequence []) 2 outOfSequence ∧ outOfSequence.pend.oos = true ∧
      (framed outOfSequence []).cfg.oosToInactive = false ∧
      HasFrame { framed outOfSequence [] with cfg := { Config.standard with oosToInactive := true } } 2 outOfSequence ∧
      HasFrame (framed newInstance []) 2 newInstance ∧ newInstance.pend.oos = false ∧ newInstance.pend.rstAck = true ∧
      HasFrame (framed idleSession []) 2 idleSession ∧ idleSession.pend = nothingPending :=
  ⟨hasFrame_framed _ _, rfl, rfl, ⟨⟨_, rfl⟩, rfl⟩, hasFrame_framed _ _, rfl, rfl, hasFrame_framed _ _, rfl⟩

/-- The vend denied and not yet reported. -/
def deniedSession : Instance := { approvedSession with pend := { nothingPending with vDen := true } }

theorem witness_PollReportsTheVendDecision :
    (HasFrame (framed approvedSession []) 2 approvedSession ∧ SessionInv approvedSession ∧
        approvedSession.pend.oos = false ∧ approvedSession.pend.rstAck = false ∧ approvedSession.pend.vApp = true) ∧
      HasFrame (framed deniedSession []) 2 deniedSession ∧ SessionInv deniedSession ∧ deniedSession.pend.oos = false ∧
      deniedSession.pend.rstAck = false ∧ deniedSession.pend.vDen = true := by
  refine ⟨⟨hasFrame_framed _ _, ⟨⟨?_, ?_, ?_, ?_, ?_, ?_, ?_, ?_⟩, ⟨?_, ?_, ?_, ?_⟩, ?_⟩, ?_⟩, hasFrame_framed _ _,
    ⟨⟨?_, ?_, ?_, ?_, ?_, ?_, ?_, ?_⟩, ⟨?_, ?_, ?_, ?_⟩, ?_⟩, ?_⟩ <;> decide

/-- The session end pending, the session begin pending, the session cancel pending. -/
def endingSession : Instance := { idleSession with pend := { nothingPending with sEnd := true }, idleArmed := false }
def beginningSession : Instance := { quietInstance .enabled with pend := { nothingPending with sBeg := true } }
def cancellingSession : Instance := { idleSession with pend := { nothingPending with sCan := true }, idleArmed := false }

theorem witness_PollReportsSessionEvents :
    (SessionInv endingSession ∧ endingSession.pend.sEnd = true ∧ endingSession.pend.vApp = false ∧
        endingSession.pend.vDen = false) ∧
      (SessionInv beginningSession ∧ beginningSession.pend.sBeg = true ∧ beginningSession.pend.vApp = false ∧
        beginningSession.pend.vDen = false) ∧
      SessionInv cancellingSession ∧ cancellingSession.pend.sEnd = false ∧ cancellingSession.pend.sCan = true ∧
      [endingSession, beginningSession, cancellingSession].all
        (fun i => !i.pend.oos && !i.pend.rstAck && !i.pend.vApp && !i.pend.vDen) = true := by
  refine ⟨⟨⟨⟨?_, ?_, ?_, ?_, ?_, ?_, ?_, ?_⟩, ⟨?_, ?_, ?_, ?_⟩, ?_⟩, ?_⟩,
    ⟨⟨⟨?_, ?_, ?_, ?_, ?_, ?_, ?_, ?_⟩, ⟨?_, ?_, ?_, ?_⟩, ?_⟩, ?_⟩,
    ⟨⟨?_, ?_, ?_, ?_, ?_, ?_, ?_, ?_⟩, ⟨?_, ?_, ?_, ?_⟩, ?_⟩, ?_⟩ <;> decide

/-- The price at the funds is approved, one above them denied. -/
theorem witness_VendRequestOpensAVend :
    HasFrame (framed idleSession []) 2 idleSession ∧ idleSession.st = .idle ∧ idleSession.pend.sEnd = false ∧
      (500 : U16).toNat ≤ idleSession.ctx.funds.toNat ∧ ¬ (501 : U16).toNat ≤ idleSession.ctx.funds.toNat :=
  ⟨hasFrame_framed _ _, rfl, rfl, by decide, by decide⟩
theorem witness_VendCancelDeniesTheVend :
    HasFrame (framed approvedSession []) 2 approvedSession ∧ approvedSession.st = .vend ∧
      approvedSession.approvalSent = false := ⟨hasFrame_framed _ _, rfl, rfl⟩
theorem witness_VendOutcomeEndsTheVend :
    HasFrame (framed sentSession []) 2 sentSession ∧ sentSession.st = .vend ∧ sentSession.approvalSent = true :=
  ⟨hasFrame_framed _ _, rfl, rfl⟩
theorem witness_SessionCompleteOwesTheEnd :
    HasFrame (framed idleSession []) 2 idleSession ∧ idleSession.st = .idle ∧
      HasFrame (framed sentSession []) 2 sentSession ∧ sentSession.st = .vend :=
  ⟨hasFrame_framed _ _, rfl, hasFrame_framed _ _, rfl⟩
theorem witness_RepeatedVendCommandsAreAcknowledged :
    HasFrame (framed sentSession []) 2 sentSession ∧ sentSession.st = .vend ∧
      HasFrame (framed idleSession []) 2 idleSession ∧ idleSession.st = .idle ∧
      HasFrame (framed beginningSession []) 2 beginningSession ∧ beginningSession.st = .enabled :=
  ⟨hasFrame_framed _ _, rfl, hasFrame_framed _ _, rfl, hasFrame_framed _ _, rfl⟩
theorem witness_ReaderCommandsSwitchTheReader :
    HasFrame (framed beginningSession []) 2 beginningSession ∧ beginningSession.st = .enabled ∧
      HasFrame (framed (quietInstance .disabled) []) 2 (quietInstance .disabled) ∧
      (quietInstance .disabled).st = .disabled := ⟨hasFrame_framed _ _, rfl, hasFrame_framed _ _, rfl⟩
theorem witness_ReaderCancelWithdrawsTheSession :
    HasFrame (framed beginningSession []) 2 beginningSession ∧
      (beginningSession.st = .disabled ∨ beginningSession.st = .enabled) := ⟨hasFrame_framed _ _, .inr rfl⟩
theorem witness_RequestIdAnswersTheIdentificationRecord :
    HasFrame (framed (quietInstance .disabled) []) 2 (quietInstance .disabled) ∧
      ((quietInstance .disabled).st = .disabled ∨ (quietInstance .disabled).st = .enabled) :=
  ⟨hasFrame_framed _ _, .inl rfl⟩

/-! Host calls, timers and host reads. -/

theorem witness_HostCallIsQueuedOrDropped (i : Instance) (c : InboundCall) :
    Offered (peripheral i [.hostCall 2 c]) .peripheral (.hostCall 2 c) [] ∧
      (peripheral i [.hostCall 2 c]).instanceAt 2 = some i := ⟨offered_peripheral _ _, rfl⟩
/-- For every call and session; the sessions of each branch are the start states above. -/
theorem witness_ConsumeAppliesTheCall (i : Instance) (c : InboundCall) :
    Offered (peripheral { i with inq := some c } [.consume 2]) .peripheral (.consume 2) [] ∧
      (peripheral { i with inq := some c } [.consume 2]).instanceAt 2 = some { i with inq := some c } :=
  ⟨offered_peripheral _ _, rfl⟩
theorem witness_SessionTimeoutsRaiseTheirFlag (i : Instance) :
    Offered (peripheral i [.idleTimeout 2]) .peripheral (.idleTimeout 2) [] ∧
      (peripheral i [.idleTimeout 2]).instanceAt 2 = some i ∧
      Offered (peripheral i [.vendTimeout 2]) .peripheral (.vendTimeout 2) [] ∧
      (peripheral i [.vendTimeout 2]).instanceAt 2 = some i ∧ (idleSession.idleArmed = true ∧ idleSession.st = .idle) ∧
      undecidedSession.vendArmed = true ∧ undecidedSession.st = .vend :=
  ⟨offered_peripheral _ _, rfl, offered_peripheral _ _, rfl, ⟨rfl, rfl⟩, rfl, rfl⟩
theorem witness_HostReadsANotificationOnce :
    (Offered (peripheral { idleSession with outSlot := some .sessionEnded } [.hostRead 2]) .peripheral (.hostRead 2) [] ∧
        (peripheral { idleSession with outSlot := some .sessionEnded } [.hostRead 2]).instanceAt 2 =
          some { idleSession with outSlot := some .sessionEnded }) ∧
      Offered (master { runningMirror .vend with outSlot := some .vendDenied } [.hostRead 2]) .master (.hostRead 2) [] ∧
      (master { runningMirror .vend with outSlot := some .vendDenied } [.hostRead 2]).mirrorAt 2 =
        some { runningMirror .vend with outSlot := some .vendDenied } :=
  ⟨⟨offered_peripheral _ _, rfl⟩, offered_master _ _, rfl⟩

/-! The master. -/

/-- For every mirror, so for every handshake step and host command. -/
theorem witness_MasterStartsTheSelectedRequest (m : MInstance) :
    Offered (master m [.start]) .master .start [] ∧ (master m [.start]).phase = .mIdle ∧
      (master m [.start]).cfg.addrs[(master m [.start]).turn]? = some 2 ∧ (master m [.start]).mirrorAt 2 = some m :=
  ⟨offered_master _ _, rfl, rfl, rfl⟩
theorem witness_MasterStartsTheSelectedRequest_owed :
    { runningMirror .idle with endSt := .eOwed }.hs = .hRun ∧ { runningMirror .idle with endSt := .eOwed }.mst = .idle ∧
      commandApplies (.vendRequest 150 3) (runningMirror .idle) = true ∧
      commandApplies (.vendRequest 150 3) (runningMirror .enabled) = false := by decide

/-- A word in M_IDLE; and for every request, mirror and buffer a mode-clear word, at `MAX_RSP_LEN` words and below it. -/
theorem witness_MasterCollectsAResponse (m : MInstance) (r : Instr) (buf : List Word9) (w : Word9) :
    (Offered (master m [.rxWord w]) .master (.rxWord w) [] ∧ (master m [.rxWord w]).phase = .mIdle) ∧
      (Offered (awaiting m r buf [.rxWord 0x000]) .master (.rxWord 0x000) [] ∧
        (awaiting m r buf [.rxWord 0x000]).phase = .mAwait 2 r buf ∧
        (awaiting m r buf [.rxWord 0x000]).mirrorAt 2 = some m) ∧
      modeOf 0x000 = false ∧ (List.replicate 35 (0 : Word9)).length + 1 = masterConfig.maxRspLen ∧
      (List.replicate 34 (0 : Word9)).length + 1 ≠ masterConfig.maxRspLen :=
  ⟨⟨offered_master _ _, rfl⟩, ⟨offered_awaiting _ _ _ _, rfl, rfl⟩, by decide, by decide, by decide⟩
theorem witness_lastWord (m : MInstance) (r : Instr) (buf : List Word9) (w : Word9) :
    Offered (awaiting m r buf [.rxWord w]) .master (.rxWord w) [] ∧
      (awaiting m r buf [.rxWord w]).phase = .mAwait 2 r buf ∧ (awaiting m r buf [.rxWord w]).mirrorAt 2 = some m :=
  ⟨offered_awaiting _ _ _ _, rfl, rfl⟩
/-- With `witness_lastWord`: an ACK to CONFIG_DATA, BEGIN_SESSION in IDLE and data to RESET are not in the table of rule R251 (95
section 2.10); BEGIN_SESSION in ENABLED and ACK to RESET are. -/
theorem witness_UnexpectedResponseRestartsTheHandshake :
    (modeOf 0x100 = true ∧ classify ([] ++ [0x100]) = (.ack, []) ∧
        expectedAnswer (.configData 1 0 0 0) (newMirror masterConfig) .ack = false ∧
        expectedAnswer .reset (newMirror masterConfig) .ack = true) ∧
      (modeOf 0x1F8 = true ∧ classify ([0x003, 0x001, 0x0F4] ++ [0x1F8]) = (.data [0x03, 0x01, 0xF4], []) ∧
        expectedAnswer .poll (runningMirror .idle) (.data [0x03, 0x01, 0xF4]) = false ∧
        expectedAnswer .poll (runningMirror .enabled) (.data [0x03, 0x01, 0xF4]) = true) ∧
      expectedAnswer .reset (newMirror masterConfig) (.data [0x00]) = false := by decide

/-- The table of rule R251 takes a record only at its exact length, and a response to POLL only in the steps it names. -/
theorem test_expectedAnswer_boundaries :
    [7, 8, 9].map (fun n => expectedAnswer (.configData 1 0 0 0) (newMirror masterConfig) (.data (1 :: List.replicate (n - 1) 0)))
        = [false, true, false] ∧
      [29, 30, 31].map (fun n => expectedAnswer sampleRequestId (runningMirror .disabled) (.data (9 :: List.replicate (n - 1) 0)))
        = [false, true, false] ∧
      [HsStep.hReset, .hWaitJr, .hConfig, .hRun].map (fun h => expectedAnswer .poll { runningMirror .idle with hs := h } .ack)
        = [false, true, false, true] := by decide

/-- With `witness_lastWord`: a timeout, and the last words of the other clauses; a POLL below `MAX_POLL_MISSES` and at it, and a
request whose miss is not counted. -/
theorem witness_MissedResponsesAreCounted :
    (∀ (m : MInstance) (r : Instr), Offered (awaiting m r [] [.rspTimeout]) .master .rspTimeout []) ∧
      (modeOf 0x1FF = true ∧ [] ++ [0x1FF] = [(0x1FF : Word9)]) ∧
      (modeOf 0x105 = true ∧ (0x105 : Word9) ≠ 0x100 ∧ (0x105 : Word9) ≠ 0x1FF) ∧
      (modeOf 0x1F9 = true ∧ checksumValid (([0x003, 0x001, 0x0F4] ++ [0x1F9]).map dataOf) = false) ∧
      (missed masterConfig 2 .poll (runningMirror .enabled)).1.misses = 1 ∧
      (missed masterConfig 2 .poll { runningMirror .enabled with misses := 2 }).2 = [.e7 2] ∧
      missed masterConfig 2 .reset (runningMirror .enabled) = (runningMirror .enabled, []) :=
  ⟨fun _ _ => offered_awaiting _ _ _ _, by decide, by decide, by decide, by decide, by decide, by decide⟩
/-- With `witness_lastWord`: the last words and the records the clauses name. -/
theorem witness_HandshakeAnswersAdvanceTheMirror :
    modeOf 0x100 = true ∧ [] ++ [0x100] = [(0x100 : Word9)] ∧
      { newMirror masterConfig with hs := .hWaitJr }.hs = .hWaitJr ∧ [0x000] ++ [0x100] = [0x000, (0x100 : Word9)] ∧
      [0x001, 0x001, 0x000, 0x000, 0x001, 0x002, 0x005, 0x000] ++ [0x10A] =
        frameP [0x01, 0x01, 0x00, 0x00, 0x01, 0x02, 0x05, 0x00] ∧ modeOf 0x10A = true ∧
      (List.replicate 29 (0 : Byte)).length = 29 ∧
      (0x009 :: List.replicate 29 0) ++ [0x109] = frameP (0x09 :: List.replicate 29 0) ∧ modeOf 0x109 = true ∧
      { newMirror masterConfig with hs := .hEnable }.hs = .hEnable := by decide
/-- With `witness_lastWord`: the responses of 95 section 2.10 and the mirror of each clause. -/
theorem witness_PollEventsMoveTheMirror :
    [0x003, 0x001, 0x0F4] ++ [0x1F8] = frameP [0x03, 0x01, 0xF4] ∧ modeOf 0x1F8 = true ∧
      [0x005, 0x000, 0x096] ++ [0x19B] = frameP [0x05, 0x00, 0x96] ∧ modeOf 0x19B = true ∧
      [0x006] ++ [0x106] = frameP [0x06] ∧ modeOf 0x106 = true ∧ [0x007] ++ [0x107] = frameP [0x07] ∧
      modeOf 0x107 = true ∧ [0x004] ++ [0x104] = frameP [0x04] ∧ modeOf 0x104 = true ∧
      [0x00B] ++ [0x10B] = frameP [0x0B] ∧ modeOf 0x10B = true ∧ [0x000] ++ [0x100] = frameP [0x00] ∧
      (runningMirror .vend).approved = false ∧ (runningMirror .idle).hs = .hRun := by decide
/-- With `witness_lastWord`: the answers; a slot whose command built the request, one that holds another command while the owed
SESSION_COMPLETE is acknowledged, and an empty one. -/
theorem witness_AcknowledgedHostCommandsMoveTheMirror (slot : Option HostCmd) :
    { runningMirror .idle with endSt := .eOwed, hostSlot := slot }.hs = .hRun ∧
      { runningMirror .idle with endSt := .eOwed, hostSlot := slot }.hostSlot = slot ∧
      commandRequest (.vendOutcome true) 3 = .vendSuccess 3 ∧ commandRequest .readerCancel 3 ≠ .sessionComplete ∧
      [0x008] ++ [0x108] = [0x008, (0x108 : Word9)] ∧ modeOf 0x108 = true ∧ modeOf 0x100 = true :=
  ⟨rfl, rfl, rfl, by decide, rfl, by decide, by decide⟩
theorem witness_HostCommandIsQueuedOrDropped (m : MInstance) (c : HostCmd) :
    Offered (master m [.hostCmd 2 c]) .master (.hostCmd 2 c) [] ∧ (master m [.hostCmd 2 c]).mirrorAt 2 = some m :=
  ⟨offered_master _ _, rfl⟩
theorem witness_TransactionsEndWithTheNextTurn :
    step (awaiting (runningMirror .enabled) .poll [] [.rxWord 0x100]) = .next (master (runningMirror .enabled) []) := by rfl

/-- Each clause: the parameters; a response to send, a frame, a queued call behind an address that has none, and nothing; both
phases of a MASTER. -/
theorem witness_BlocksMoveOnTheirOwn :
    (configOk Config.standard = true ∧ Config.standard.role = .peripheral) ∧
      (configOk masterConfig = true ∧ masterConfig.role = .master ∧ masterConfig.addrs.head? = some 2) ∧
      ((responding (some [0x100]) .skip).txSlot.isSome = true ∧ { responding (some [0x100]) .skip with agenda := [] }.agenda = []) ∧
      ((framed newInstance [0x12]).rxSlot ≠ none ∧ (framed newInstance [0x12]).txSlot.isSome = false ∧
        (framed newInstance [0x12]).agenda = []) ∧
      ({ peripheral newInstance [] with inst := [(2, newInstance), (3, { newInstance with inq := some .approveVend })] }.inst =
          [(2, newInstance)] ++ (3, { newInstance with inq := some .approveVend }) :: [] ∧ newInstance.inq = none) ∧
      (master (newMirror masterConfig) []).phase = .mIdle ∧ (awaiting (newMirror masterConfig) .reset [] []).phase ≠ .mIdle := by
  decide

/-! The joined system. -/

/-- The mirror of `idleSession`, as after row 2 of program 2. -/
def openMirror : MInstance := { runningMirror .idle with funds := 500 }

theorem mirrorInv_openMirror : MirrorInv masterConfig openMirror :=
  ⟨by decide, by decide, by decide, by decide, by decide, by decide⟩

theorem linked_openMirror : Linked openMirror idleSession := ⟨rfl, rfl, by decide, rfl, by decide⟩

/-- A MASTER with the mirror `openMirror` that sent POLL and has received `buf`. -/
theorem masterInv_polling {buf : List Word9} (hm : ∀ w ∈ buf, modeOf w = false) (hl : buf.length < masterConfig.maxRspLen) :
    MasterInv (awaiting openMirror .poll buf []) where
  tables := ⟨configOk_master, fun h => (nomatch h), fun _ => ⟨rfl, rfl⟩, show 0 < masterConfig.addrs.length by decide⟩
  role := rfl
  room := show 0 < masterConfig.maxRspLen by decide
  mirrors := by
    intro p hp
    obtain rfl : p = (2, openMirror) := by simpa [awaiting, master] using hp
    exact mirrorInv_openMirror
  phase := by
    intro a req ws h
    obtain ⟨rfl, rfl, rfl⟩ : (2 : Addr5) = a ∧ Instr.poll = req ∧ buf = ws := by simpa [awaiting] using h
    refine ⟨rfl, fun m h => ?_, hm, hl⟩
    obtain rfl : openMirror = m := Option.some.inj h
    exact .inl rfl

/-- A session open in both blocks. -/
theorem witness_TransactionsKeepTheMirror : JoinedOk 2 (master openMirror []) (peripheral idleSession []) where
  masterRole := rfl
  peripheralRole := rfl
  masterAddrs := rfl
  peripheralAddrs := rfl
  room := by decide
  masterInv :=
    { tables := ⟨configOk_master, fun h => (nomatch h), fun _ => ⟨rfl, rfl⟩, by decide⟩
      role := rfl
      room := by decide
      mirrors := (masterInv_polling (buf := []) (by decide) (by decide)).mirrors
      phase := fun _ _ _ h => nomatch h }
  lineInv := ⟨⟨by decide, fun _ => ⟨rfl, rfl⟩, fun h => (nomatch h), by decide⟩, trivial, fun _ _ h => nomatch h⟩
  sessions := sessionsOk_peripheral []
  idle := rfl
  quiet := ⟨rfl, rfl, rfl⟩
  linked := ⟨_, _, rfl, rfl, linked_openMirror⟩

/-- The joined blocks with the address byte of a POLL received and its checksum under way. -/
def midPoll : Joined :=
  ⟨awaiting openMirror .poll [] [], { peripheral idleSession [] with rx := .collect 2 [0x12] (some 2) }, [0x012], []⟩

theorem witness_JoinedStepsKeepTheMirror_arriving :
    JoinedInv 2 midPoll where
  masterRole := rfl
  peripheralRole := rfl
  masterAddrs := rfl
  peripheralAddrs := rfl
  room := by decide
  masterInv := masterInv_polling (by decide) (by decide)
  lineInv :=
    ⟨⟨by decide, fun _ => ⟨rfl, rfl⟩, fun h => (nomatch h), by decide⟩,
      ⟨by decide, by decide, by decide, by decide, .inl ⟨0x12, rfl, by decide⟩⟩, fun _ _ h => nomatch h⟩
  sessions := sessionsOk_peripheral []
  progress := ⟨_, _, rfl, rfl,
    .arriving .poll 1 rfl (by decide) (by decide) (by decide) (by decide) rfl rfl (by decide) rfl linked_openMirror⟩

/-- The joined blocks with the first word of CANCEL_REQUEST received and the last under way, which leaves the mirror owing
SESSION_COMPLETE. -/
theorem witness_JoinedStepsKeepTheMirror_returning :
    JoinedInv 2 ⟨awaiting openMirror .poll [0x004] [], peripheral idleSession [], [], [0x104]⟩ where
  masterRole := rfl
  peripheralRole := rfl
  masterAddrs := rfl
  peripheralAddrs := rfl
  room := by decide
  masterInv := masterInv_polling (by decide) (by decide)
  lineInv := witness_TransactionsKeepTheMirror.lineInv
  sessions := sessionsOk_peripheral []
  progress := ⟨_, _, rfl, rfl,
    .returning .poll [0x004] rfl rfl rfl rfl rfl (by decide)
      ⟨.data [0x04], .inr ⟨[0x04], by decide, by decide, by decide, rfl⟩, by decide, ⟨rfl, rfl, by decide, rfl, by decide⟩,
        fun _ => rfl⟩⟩

/-- One step of the joined system: the word on the line completes the POLL. -/
theorem test_joined_step_hands_over :
    (Joined.step midPoll .arriveAtPeripheral).peripheral.rxSlot = some (2, [0x12]) := by decide

end Sys2Proof.Tests
end

section
/-! Parameters and the block's own move: which parameters are legal (rules R9, R312), which move a block makes where none is
chosen for it (rule R15, notes/assumptions/2.md), and the first step after construction (rule R310). -/

namespace Sys2Proof.Machine

/-! ### Legal parameters -/

/-- The check on an address list, in the words of rule R9. -/
theorem addressesOk_iff (as : List Addr5) : addressesOk as = true ↔ as ≠ [] ∧ as.Nodup ∧ 0 ∉ as := by
  simp [addressesOk, and_assoc]

/-- The check on the parameters, in the words of rules R9 and R312. -/
theorem configOk_iff (cfg : Config) :
    configOk cfg = true ↔
      (cfg.ownAddrs ≠ [] ∧ cfg.ownAddrs.Nodup ∧ 0 ∉ cfg.ownAddrs) ∧
        (cfg.addrs ≠ [] ∧ cfg.addrs.Nodup ∧ 0 ∉ cfg.addrs) ∧ cfg.capScale ≠ 0 ∧
        cfg.idMfr.length = 3 ∧ cfg.idSerial.length = 12 ∧ cfg.idModel.length = 12 ∧ cfg.idSwver.length = 2 ∧
        cfg.vmcId.length = 29 := by
  simp only [configOk, Bool.and_eq_true, addressesOk_iff, bne_iff_ne, beq_iff_eq, and_assoc]

/-- Legal parameters construct a block (rule R9). -/
theorem instantiate_legal {cfg : Config} (hc : configOk cfg = true) : instantiate cfg = .next (State.construct cfg) := by
  rw [instantiate, if_pos hc]

/-- Illegal parameters construct none (rules R9, R312). -/
theorem instantiate_illegal {cfg : Config} (hc : configOk cfg ≠ true) : instantiate cfg = .refused .invalidParameters := by
  rw [instantiate, if_neg hc]

/-- A state with illegal parameters has no step (rules R9, R312). -/
theorem step_illegal {s : State} (hc : configOk s.cfg ≠ true) : step s = .refused .invalidParameters := by
  rw [step, if_neg hc]

/-- Settles O1: `configOk` is the statement's list of constraints, and both `instantiate` and `step` branch on it. -/
theorem illegalParametersAreRefused : Obligations.IllegalParametersAreRefused := by
  intro cfg legal
  have hlegal : configOk cfg = true ↔ legal := configOk_iff cfg
  refine ⟨fun h => instantiate_legal (hlegal.2 h), fun h => ?_⟩
  have hc : configOk cfg ≠ true := fun hc => h (hlegal.1 hc)
  refine ⟨instantiate_illegal hc, ?_⟩
  rintro s rfl
  exact step_illegal hc

/-! ### A step with no move chosen -/

/-- With no move chosen a step is the same as with the block's own move chosen. -/
theorem step_ownMove {s : State} {mv : Move} (hc : configOk s.cfg = true) (ha : s.agenda = [])
    (hm : idleMove s = some mv) : step s = step { s with agenda := [mv] } := by
  have hs : { s with agenda := [] } = s := by rw [← ha]
  calc step s = takeMove s mv := by simp [step_eq hc, nextMove, ha, hm]
    _ = takeMove { s with agenda := [] } mv := by rw [hs]
    _ = step { s with agenda := [mv] } := (step_offered (s := { s with agenda := [mv] }) hc rfl).symm

/-- With no move chosen and none of its own a block waits (rules R113, R230). -/
theorem step_waits {s : State} (hc : configOk s.cfg = true) (ha : s.agenda = []) (hm : idleMove s = none) :
    step s = .next s := by
  simp [step_eq hc, nextMove, ha, hm]

/-! ### The own move of a PERIPHERAL -/

/-- No frame is being received where LINE collects none (rule R129). -/
theorem betweenFrames_iff (rx : RxPhase) : betweenFrames rx = true ↔ rx = .idle ∨ rx = .skip := by
  cases rx <;> simp [betweenFrames]

/-- The guard of the transmit step (rules R129, R230). -/
theorem peripheralEnabled_transmit_iff (s : State) :
    peripheralEnabled s .transmit = true ↔ s.txSlot.isSome = true ∧ (s.rx = .idle ∨ s.rx = .skip) := by
  rw [peripheralEnabled, Bool.and_eq_true, betweenFrames_iff]

/-- The guard of the frame step (rules R210, R230). -/
theorem peripheralEnabled_frame_iff (s : State) : peripheralEnabled s .frame = true ↔ s.rxSlot ≠ none :=
  Option.isSome_iff_ne_none

/-- No call is first where there is none. -/
theorem firstCall_none {t : List (Addr5 × Instance)} (h : ∀ q ∈ t, q.2.inq = none) : firstCall t = none := by
  induction t with
  | nil => rfl
  | cons p rest ih =>
    obtain ⟨hp, hrest⟩ := List.forall_mem_cons.1 h
    simp [firstCall, hp, ih hrest]

/-- The first call is the one of a session behind sessions that hold none. -/
theorem firstCall_append_cons {before after : List (Addr5 × Instance)} {a : Addr5} {i : Instance}
    (hbefore : ∀ q ∈ before, q.2.inq = none) (hi : i.inq ≠ none) : firstCall (before ++ (a, i) :: after) = some a := by
  induction before with
  | nil => simp [firstCall, Option.isSome_iff_ne_none, hi]
  | cons p rest ih =>
    obtain ⟨hp, hrest⟩ := List.forall_mem_cons.1 hbefore
    simp [firstCall, hp, ih hrest]

section
variable {s : State} (hr : s.cfg.role = .peripheral)
include hr

/-- A waiting response goes out first. -/
theorem idleMove_transmit (ht : peripheralEnabled s .transmit = true) : idleMove s = some .transmit := by
  simp [idleMove, hr, ht]

/-- A frame is taken where no response can go out. -/
theorem idleMove_frame (ht : peripheralEnabled s .transmit ≠ true) (hf : s.rxSlot ≠ none) :
    idleMove s = some .frame := by
  simp [idleMove, hr, ht, (peripheralEnabled_frame_iff s).2 hf]

/-- Where LINE has nothing for it, PROTO consumes the first call. -/
theorem idleMove_firstCall (ht : peripheralEnabled s .transmit ≠ true) (hf : s.rxSlot = none) :
    idleMove s = (firstCall s.inst).map .consume := by
  have hf' : peripheralEnabled s .frame ≠ true := fun h => (peripheralEnabled_frame_iff s).1 h hf
  simp [idleMove, hr, ht, hf']

end

/-! ### The own move of a MASTER -/

/-- A MASTER in M_IDLE starts a transaction (rule R240). -/
theorem idleMove_start {s : State} (hr : s.cfg.role = .master) (hp : s.phase = .mIdle) : idleMove s = some .start := by
  simp [idleMove, hr, masterEnabled, hp]

/-- A MASTER that awaits a response has no move of its own (rule R240). -/
theorem idleMove_awaiting {s : State} (hr : s.cfg.role = .master) (hp : s.phase ≠ .mIdle) : idleMove s = none := by
  simp [idleMove, hr, masterEnabled, hp]

/-- With no move chosen a MASTER in M_IDLE starts a transaction (rules R240, R241). -/
theorem step_start {s : State} (hc : configOk s.cfg = true) (ha : s.agenda = []) (hr : s.cfg.role = .master)
    (hp : s.phase = .mIdle) : step s = .next (startTransaction s) := by
  have he : enabled s .start = true := by simp [enabled, hr, masterEnabled, hp]
  have hmove : takeMove s .start = .next (performMove s .start) := takeMove_enabled he (by decide)
  simp only [step_eq hc, nextMove, ha, idleMove_start hr hp, Option.map_some, hmove, performMove]

/-! ### The first step after construction -/

/-- No session holds a call after construction (rule R42). -/
theorem construct_noCall (cfg : Config) : ∀ q ∈ (State.construct cfg).inst, q.2.inq = none := by
  cases hr : cfg.role <;> simp [State.construct, hr, newInstance]

/-- The mirror of a polled address after construction (rule R43). -/
theorem construct_mirrorAt {cfg : Config} {a : Addr5} (hr : cfg.role = .master) (ha : a ∈ cfg.addrs) :
    (State.construct cfg).mirrorAt a = some (newMirror cfg) := by
  simp [State.mirrorAt, State.construct, hr, lookupAt_map_const, ha]

/-- The first turn is that of the first polled address (rules R43, R310). -/
theorem construct_turnAddress {cfg : Config} {a : Addr5} (ha : cfg.addrs.head? = some a) :
    (State.construct cfg).turnAddress = some a := by
  rw [← ha, List.head?_eq_getElem?]; rfl

/-- A constructed PERIPHERAL has no move of its own (rule R310). -/
theorem construct_idleMove_peripheral {cfg : Config} (hr : cfg.role = .peripheral) :
    idleMove (State.construct cfg) = none := by
  have ht : peripheralEnabled (State.construct cfg) .transmit ≠ true := Bool.false_ne_true
  rw [idleMove_firstCall hr ht rfl, firstCall_none (construct_noCall cfg)]
  rfl

/-- The first transaction of a constructed MASTER is RESET to the first polled address (rules R242, R310). -/
theorem construct_startTransaction {cfg : Config} {a : Addr5} (hr : cfg.role = .master)
    (ha : cfg.addrs.head? = some a) :
    startTransaction (State.construct cfg) =
      { State.construct cfg with out := encode a .reset, phase := .mAwait a .reset [] } := by
  have hm := construct_mirrorAt hr (List.mem_of_mem_head? ha)
  have hreset : selectRequest cfg a (newMirror cfg) = (.reset, ⟨newMirror cfg, []⟩) := rfl
  have hsame : updateAt a (newMirror cfg) (State.construct cfg).mirror = (State.construct cfg).mirror := updateAt_same hm
  rw [startTransaction_eq (construct_turnAddress ha) hm, show (State.construct cfg).cfg = cfg from rfl, hreset, hsame]
  rfl

/-- The first step of a constructed MASTER (rule R310). -/
theorem construct_step_master {cfg : Config} {a : Addr5} (hc : configOk cfg = true) (hr : cfg.role = .master)
    (ha : cfg.addrs.head? = some a) :
    step (State.construct cfg) =
      .next { State.construct cfg with out := encode a .reset, phase := .mAwait a .reset [] } := by
  rw [step_start (s := State.construct cfg) hc rfl hr rfl, construct_startTransaction hr ha]

/-- Settles O58: the own move of each clause is `idleMove`, and a step with no move chosen takes it or waits. -/
theorem blocksMoveOnTheirOwn : Obligations.BlocksMoveOnTheirOwn := by
  refine ⟨fun cfg hc hr => step_waits hc rfl (construct_idleMove_peripheral hr),
    fun cfg a hc hr ha => construct_step_master hc hr ha, fun s hc hr ha => ?peripheral, fun s hc hr ha => ?master⟩
  case peripheral =>
    intro transmits
    have htransmits : peripheralEnabled s .transmit = true ↔ transmits := peripheralEnabled_transmit_iff s
    rw [← htransmits]
    refine ⟨fun ht => step_ownMove hc ha (idleMove_transmit hr ht),
      fun ht hf => step_ownMove hc ha (idleMove_frame hr ht hf), ?consume, ?wait⟩
    case consume =>
      intro before a i after ht hf hinst hbefore hi
      have hm : idleMove s = some (.consume a) := by
        rw [idleMove_firstCall hr ht hf, hinst, firstCall_append_cons hbefore hi]
        rfl
      exact step_ownMove hc ha hm
    case wait =>
      intro ht hf hnone
      have hm : idleMove s = none := by
        rw [idleMove_firstCall hr ht hf, firstCall_none hnone]
        rfl
      exact step_waits hc ha hm
  case master =>
    exact ⟨fun hp => step_ownMove hc ha (idleMove_start hr hp), fun hp => step_waits hc ha (idleMove_awaiting hr hp)⟩

end Sys2Proof.Machine
end

section
/-! What a move can do, said once: every move of a block is one of a few effects on its fields (rules R230, R240). The invariants
below go by these effects, so that none of them splits the moves again. -/

namespace Sys2Proof.Machine

/-! ### The moves of the session agents, the host and the windows -/

/-- What a move can make of the session `i` of its address: a command (R210), a consumed call (R224), a host call (R219), a host
read (R227), or the end of a window (R228, R229). -/
inductive SessionMove (cfg : Config) (i : Instance) : Instance → Prop where
  | command (r : Instr) : SessionMove cfg i (restartIdle r.kind (ruleOf r cfg i))
  | consumed (c : InboundCall) : SessionMove cfg i (applyCall c { i with inq := none }).1
  | called (c : InboundCall) : SessionMove cfg i { i with inq := some c }
  | read : SessionMove cfg i { i with outSlot := none }
  | idleEnded (armed : i.idleArmed = true) (idle : i.st = .idle) :
      SessionMove cfg i { i with pend := { i.pend with sCan := true }, idleArmed := false }
  | vendEnded (armed : i.vendArmed = true) (vend : i.st = .vend) :
      SessionMove cfg i { i with pend := { i.pend with vDen := true }, vendArmed := false }

/-- What the host's moves can make of the slots of the mirror `m` (rules R270, R271). -/
inductive MirrorHostMove (m : MInstance) : MInstance → Prop where
  | commanded (c : HostCmd) : MirrorHostMove m { m with hostSlot := some c }
  | read : MirrorHostMove m { m with outSlot := none }

/-- What a move can make of a block. -/
inductive MoveEffect (s : State) : State → Prop where
  /-- nothing: the guard does not hold, or there is nothing to do -/
  | nothing : MoveEffect s s
  /-- LINE receives a word (R126) -/
  | word (w : Word9) : MoveEffect s (receiveWord s w)
  /-- LINE transmits the response (R129) -/
  | transmitted (ws : List Word9) : MoveEffect s { s with txSlot := none, out := s.out ++ ws }
  /-- PROTO takes a frame it does not answer -/
  | discarded (a : Addr5) : MoveEffect s (s.discard a)
  /-- PROTO executes a request (R210) -/
  | answered {a : Addr5} {i : Instance} (r : Instr) (session : s.instanceAt a = some i) :
      MoveEffect s (s.answer a r.kind (ruleOf r s.cfg i))
  /-- any other move on one session -/
  | session {a : Addr5} {i i' : Instance} (es : List ErrorEvent) (os : List Observed) (rs : List (Addr5 × SendResult))
      (session : s.instanceAt a = some i) (move : SessionMove s.cfg i i') :
      MoveEffect s
        { s with
          inst := updateAt a i' s.inst, log := s.log ++ es, seen := s.seen ++ os, results := s.results ++ rs }
  /-- a host send finds the slot taken (R219, R270) -/
  | dropped (es : List ErrorEvent) (rs : List (Addr5 × SendResult)) :
      MoveEffect s { s with log := s.log ++ es, results := s.results ++ rs }
  /-- the host's move on one mirror -/
  | mirror {a : Addr5} {m m' : MInstance} (os : List Observed) (rs : List (Addr5 × SendResult))
      (mirror : s.mirrorAt a = some m) (move : MirrorHostMove m m') :
      MoveEffect s { s with mirror := updateAt a m' s.mirror, seen := s.seen ++ os, results := s.results ++ rs }
  /-- MSEQ starts a transaction (R241) -/
  | started {a : Addr5} {m : MInstance} (turn : s.turnAddress = some a) (mirror : s.mirrorAt a = some m) :
      MoveEffect s
        { s with
          mirror := updateAt a (selectRequest s.cfg a m).2.m s.mirror
          log := s.log ++ (selectRequest s.cfg a m).2.errs
          out := s.out ++ encode a (selectRequest s.cfg a m).1
          phase := .mAwait a (selectRequest s.cfg a m).1 [] }
  /-- MSEQ receives a word that does not end the response (R130) -/
  | collected {a : Addr5} {req : Instr} {buf : List Word9} {w : Word9} (phase : s.phase = .mAwait a req buf)
      (mode : modeOf w = false) (room : buf.length + 1 ≠ s.cfg.maxRspLen) :
      MoveEffect s { s with phase := .mAwait a req (buf ++ [w]) }
  /-- MSEQ completes the transaction (R250) -/
  | completed {a : Addr5} {req : Instr} {buf : List Word9} (c : ResponseClass) (before after : List ErrorEvent)
      (phase : s.phase = .mAwait a req buf) :
      MoveEffect s ((complete (s.raise before) a req c).raise after)

/-! ### Each move has one of the effects -/

theorem frameStep_effect {s t : State} (h : frameStep s = .next t) : MoveEffect s t := by
  obtain ⟨-, hstep⟩ | ⟨a, f, r, -, -, hstep⟩ | ⟨a, f, why, -, -, hstep⟩ := frameStep_cases s
  · obtain rfl : s = t := by simpa [hstep] using h
    exact .nothing
  · rw [hstep] at h
    obtain ⟨-, hexec⟩ | ⟨b, g, -, -, hexec⟩ | ⟨b, g, i, -, hi, hexec⟩ := exec_cases r s
    · obtain rfl : s = t := by simpa [hexec] using h
      exact .nothing
    · obtain rfl : s.discard b = t := by simpa [hexec] using h
      exact .discarded b
    · obtain rfl : s.answer b r.kind (ruleOf r s.cfg i) = t := by simpa [hexec] using h
      exact .answered r hi
  · simp [hstep] at h

theorem transmit_effect (s : State) : MoveEffect s (transmit s) := by
  rcases ht : s.txSlot with _ | ws
  · rw [transmit_none ht]; exact .nothing
  · rw [transmit_some ht]; exact .transmitted ws

theorem consumeCall_effect (s : State) (a : Addr5) : MoveEffect s (consumeCall s a) := by
  rcases hi : s.instanceAt a with _ | i
  · simpa [consumeCall, hi] using .nothing
  · rcases hq : i.inq with _ | c
    · simpa [consumeCall, hi, hq] using .nothing
    · simpa [consumeCall, hi, hq, State.putInstance, State.raise] using
        MoveEffect.session (applyCall c { i with inq := none }).2 [] [] hi (.consumed c)

theorem sendCall_effect (s : State) (a : Addr5) (c : InboundCall) : MoveEffect s (sendCall s a c) := by
  rcases hi : s.instanceAt a with _ | i
  · simpa [sendCall, hi] using .nothing
  · rcases hq : i.inq with _ | d
    · simpa [sendCall, hi, hq, State.putInstance, State.answerHost] using
        MoveEffect.session [] [] [(a, .accepted)] hi (.called c)
    · simpa [sendCall, hi, hq] using .dropped [.e5 a c] [(a, .dropped)]

theorem readNotification_effect (s : State) (a : Addr5) : MoveEffect s (readNotification s a) := by
  rcases hi : s.instanceAt a with _ | i
  · simpa [readNotification, hi] using .nothing
  · rcases ho : i.outSlot with _ | n
    · simpa [readNotification, hi, ho] using .nothing
    · simpa [readNotification, hi, ho, State.putInstance, State.observe] using
        MoveEffect.session [] [.peripheral a n] [] hi .read

/-- The guard of a move on a session names the session. -/
theorem instanceIs_iff (s : State) (a : Addr5) (p : Instance → Bool) :
    s.instanceIs a p = true ↔ ∃ i, s.instanceAt a = some i ∧ p i = true := by
  rcases hi : s.instanceAt a with _ | i <;> simp [State.instanceIs, hi]

theorem idleTimeout_effect {s : State} {a : Addr5} (he : enabled s (.idleTimeout a) = true) :
    MoveEffect s (idleTimeout s a) := by
  have hg : peripheralEnabled s (.idleTimeout a) = true := by
    cases hr : s.cfg.role <;> simp_all [enabled, masterEnabled]
  obtain ⟨i, hi, hp⟩ := (instanceIs_iff ..).1 hg
  simp only [Bool.and_eq_true, beq_iff_eq] at hp
  obtain ⟨harmed, hidle⟩ := hp
  simpa [idleTimeout, hi, State.putInstance] using MoveEffect.session [] [] [] hi (.idleEnded harmed hidle)

theorem vendTimeout_effect {s : State} {a : Addr5} (he : enabled s (.vendTimeout a) = true) :
    MoveEffect s (vendTimeout s a) := by
  have hg : peripheralEnabled s (.vendTimeout a) = true := by
    cases hr : s.cfg.role <;> simp_all [enabled, masterEnabled]
  obtain ⟨i, hi, hp⟩ := (instanceIs_iff ..).1 hg
  simp only [Bool.and_eq_true, beq_iff_eq] at hp
  obtain ⟨harmed, hvend⟩ := hp
  simpa [vendTimeout, hi, State.putInstance] using MoveEffect.session [] [] [] hi (.vendEnded harmed hvend)

theorem startTransaction_effect (s : State) : MoveEffect s (startTransaction s) := by
  obtain hs | ⟨a, m, hturn, hm, hs⟩ := startTransaction_cases s
  · rw [hs]; exact .nothing
  · rw [hs]; exact .started hturn hm

theorem receiveResponse_effect (s : State) (w : Word9) : MoveEffect s (receiveResponse s w) := by
  obtain ⟨-, hs⟩ | ⟨a, req, buf, hp, ⟨-, hs⟩ | ⟨hmode, hroom, hs⟩ | ⟨-, -, hs⟩⟩ := receiveResponse_cases s w
  · rw [hs]; exact .nothing
  · rw [hs]
    simpa [State.raise] using
      MoveEffect.completed (classify (buf ++ [w])).1 (classify (buf ++ [w])).2 [] hp
  · rw [hs]; exact .collected hp hmode hroom
  · rw [hs]
    simpa [State.raise] using MoveEffect.completed .invalid [] [.e1 .overlong] hp

theorem responseTimeout_effect (s : State) : MoveEffect s (responseTimeout s) := by
  rcases hp : s.phase with _ | ⟨a, req, buf⟩
  · rw [responseTimeout_idle hp]; exact .nothing
  · rw [responseTimeout_await hp]
    simpa [State.raise] using MoveEffect.completed .noResponse [.e4 a req] [] hp

theorem sendHostCmd_effect (s : State) (a : Addr5) (c : HostCmd) : MoveEffect s (sendHostCmd s a c) := by
  rcases hm : s.mirrorAt a with _ | m
  · simpa [sendHostCmd, hm] using .nothing
  · rcases hq : m.hostSlot with _ | d
    · simpa [sendHostCmd, hm, hq, State.putMirror, State.answerHost] using
        MoveEffect.mirror [] [(a, .accepted)] hm (.commanded c)
    · simpa [sendHostCmd, hm, hq] using .dropped [.e5Master a c] [(a, .dropped)]

theorem readMasterNotification_effect (s : State) (a : Addr5) : MoveEffect s (readMasterNotification s a) := by
  rcases hm : s.mirrorAt a with _ | m
  · simpa [readMasterNotification, hm] using .nothing
  · rcases ho : m.outSlot with _ | n
    · simpa [readMasterNotification, hm, ho] using .nothing
    · simpa [readMasterNotification, hm, ho, State.putMirror, State.observe] using
        MoveEffect.mirror [.master a n] [] hm .read

/-- Every enabled move but the frame step has one of the effects. -/
theorem performMove_effect {s : State} {mv : Move} (he : enabled s mv = true) : MoveEffect s (performMove s mv) := by
  cases mv with
  | rxWord w =>
    rcases hr : s.cfg.role with _ | _ <;> simp only [performMove, receive, hr]
    · exact receiveResponse_effect s w
    · exact .word w
  | transmit => exact transmit_effect s
  | frame => exact .nothing
  | consume a => exact consumeCall_effect s a
  | hostCall a c => exact sendCall_effect s a c
  | hostRead a =>
    rcases hr : s.cfg.role with _ | _ <;> simp only [performMove, hostRead, hr]
    · exact readMasterNotification_effect s a
    · exact readNotification_effect s a
  | idleTimeout a => exact idleTimeout_effect he
  | vendTimeout a => exact vendTimeout_effect he
  | start => exact startTransaction_effect s
  | rspTimeout => exact responseTimeout_effect s
  | hostCmd a c => exact sendHostCmd_effect s a c

/-- Every move that answers a next state has one of the effects. -/
theorem takeMove_effect {s t : State} {mv : Move} (h : takeMove s mv = .next t) : MoveEffect s t := by
  obtain ⟨-, hs⟩ | ⟨-, -, hs⟩ | ⟨he, -, hs⟩ := takeMove_cases s mv
  · obtain rfl : s = t := by simpa [hs] using h
    exact .nothing
  · exact frameStep_effect (hs ▸ h)
  · obtain rfl : performMove s mv = t := by simpa [hs] using h
    exact performMove_effect he

/-- A property of states that does not look at `agenda` and that every effect keeps is kept by every step. -/
theorem step_keeps_of_effect {P : State → Prop} (hagenda : ∀ s rest, P s → P { s with agenda := rest })
    (heffect : ∀ s t, P s → MoveEffect s t → P t) {s t : State} (hp : P s) (h : step s = .next t) : P t :=
  step_keeps hagenda (fun s t _ hp hm => heffect s t hp (takeMove_effect hm)) hp h

end Sys2Proof.Machine
end

section
/-! The parameters and the observations: no move writes the parameters, and the words emitted, the error log, the notifications
read and the results of host sends only grow (rules R40, R231, R275, R280). -/

namespace Sys2Proof.Machine

/-- `t` has the parameters of `s` and every observation made up to `s`. -/
structure Extends (s t : State) : Prop where
  cfg : t.cfg = s.cfg
  out : s.out <+: t.out
  log : s.log <+: t.log
  seen : s.seen <+: t.seen
  results : s.results <+: t.results

theorem Extends.refl (s : State) : Extends s s := ⟨rfl, List.prefix_rfl, List.prefix_rfl, List.prefix_rfl, List.prefix_rfl⟩

theorem Extends.trans {s t u : State} (h : Extends s t) (h' : Extends t u) : Extends s u where
  cfg := h'.cfg.trans h.cfg
  out := h.out.trans h'.out
  log := h.log.trans h'.log
  seen := h.seen.trans h'.seen
  results := h.results.trans h'.results

theorem raise_extends (s : State) (es : List ErrorEvent) : Extends s (s.raise es) :=
  { Extends.refl s with log := List.prefix_append .. }

theorem receiveWord_extends (s : State) (w : Word9) : Extends s (receiveWord s w) := by
  obtain ⟨rx, slot, es, hs, -⟩ := receiveWord_fields s w
  rw [hs]
  exact { Extends.refl s with log := List.prefix_append .. }

theorem complete_extends (s : State) (a : Addr5) (req : Instr) (c : ResponseClass) : Extends s (complete s a req c) := by
  obtain ⟨-, hs⟩ | ⟨m, -, hs⟩ := complete_cases s a req c
  · rw [hs]
    exact { Extends.refl s with out := List.prefix_append .. }
  · rw [hs]
    exact { Extends.refl s with out := List.prefix_append .., log := List.prefix_append .. }

/-- Every effect keeps the parameters and what was observed. -/
theorem MoveEffect.extends {s t : State} (h : MoveEffect s t) : Extends s t := by
  cases h with
  | nothing => exact .refl s
  | word w => exact receiveWord_extends s w
  | transmitted ws => exact { Extends.refl s with out := List.prefix_append .. }
  | discarded a => exact { Extends.refl s with log := List.prefix_append .. }
  | answered r _ => exact { Extends.refl s with log := List.prefix_append .. }
  | session es os rs _ _ =>
    exact { Extends.refl s with
      log := List.prefix_append .., seen := List.prefix_append .., results := List.prefix_append .. }
  | dropped es rs =>
    exact { Extends.refl s with log := List.prefix_append .., results := List.prefix_append .. }
  | mirror os rs _ _ =>
    exact { Extends.refl s with seen := List.prefix_append .., results := List.prefix_append .. }
  | started _ _ => exact { Extends.refl s with out := List.prefix_append .., log := List.prefix_append .. }
  | collected _ _ _ => exact { Extends.refl s with }
  | completed c before after _ =>
    exact ((raise_extends s before).trans (complete_extends ..)).trans (raise_extends _ after)

/-- Settles O9: every effect of a move extends the state it starts from. -/
theorem parametersStayAndObservationsGrow : Obligations.ParametersStayAndObservationsGrow := by
  intro s t h
  have hext : Extends s t :=
    step_keeps_of_effect (P := Extends s) (fun _ _ hp => { hp with }) (fun _ _ hp he => hp.trans he.extends)
      (.refl s) h
  exact ⟨hext.cfg, hext.out, hext.log, hext.seen, hext.results⟩

end Sys2Proof.Machine
end

section
/-! The sessions: SessionInv (rules R41, R213, R229, R232) state by state, and that a change of state, every command, every host
call, every host read and the end of a window keep it. -/

namespace Sys2Proof.Machine

/-! ### The flags of each session state -/

/-- The flags each session state allows: the content of SessionInv state by state. In VEND exactly one of four holds: the approval
is decided, the denial is decided, the approval was sent, or the vend window runs. -/
def StateFlags (i : Instance) : Prop :=
  match i.st with
  | .inactive | .disabled =>
    (i.pend.vApp = false ∧ i.pend.vDen = false ∧ i.approvalSent = false ∧ i.vendArmed = false) ∧
      i.pend.sBeg = false ∧ i.pend.sCan = false ∧ i.pend.sEnd = false ∧ i.idleArmed = false
  | .enabled =>
    (i.pend.vApp = false ∧ i.pend.vDen = false ∧ i.approvalSent = false ∧ i.vendArmed = false) ∧
      i.pend.sCan = false ∧ i.pend.sEnd = false ∧ i.idleArmed = false
  | .idle =>
    (i.pend.vApp = false ∧ i.pend.vDen = false ∧ i.approvalSent = false ∧ i.vendArmed = false) ∧
      i.pend.sBeg = false ∧ (i.pend.sCan = false → i.pend.sEnd = false → i.idleArmed = true)
  | .vend =>
    [i.pend.vApp, i.pend.vDen, i.approvalSent, i.vendArmed].count true = 1 ∧
      i.pend.sBeg = false ∧ i.pend.sCan = false ∧ i.pend.sEnd = false ∧ i.idleArmed = false

/-- "Exactly one" of the four flags of VEND, in the clauses of SessionInv. -/
theorem vendFlags_iff : ∀ app den sent armed : Bool,
    [app, den, sent, armed].count true = 1 ↔
      ¬ (app = true ∧ den = true) ∧ (sent = true → app = false ∧ den = false ∧ armed = false) ∧
        (armed = true → app = false ∧ den = false) ∧
        (app = false → den = false → sent = false → armed = true) := by
  decide

/-- SessionInv state by state. -/
theorem sessionInv_iff (i : Instance) : SessionInv i ↔ StateFlags i := by
  constructor
  · rintro ⟨⟨hnotBoth, hdecided, hsBeg, hsCan, hsEnd, hsent, hvend, hidle⟩, ⟨hidleRuns, hvendRuns, hsentDecided, -⟩, hopen⟩
    rcases hs : i.st <;> simp_all [StateFlags, vendFlags_iff]
  · intro h
    rcases hs : i.st <;> simp only [StateFlags, hs, vendFlags_iff] at h <;>
      exact ⟨by constructor <;> simp_all, by constructor <;> simp_all, by simp_all⟩

/-! ### Updates of a session that keep the invariants -/

section
variable {i : Instance}

/-- SessionInv reads neither the vend context, nor the slots, nor the flags `oos` and `rstAck`. -/
theorem SessionInv.inert (h : SessionInv i) (oos rstAck : Bool) (ctx : VendContext) (inq : Option InboundCall)
    (out : Option Notification) :
    SessionInv
      { i with pend := { i.pend with oos := oos, rstAck := rstAck }, ctx := ctx, inq := inq, outSlot := out } :=
  ⟨{ h.rule41 with }, { h.rule232 with }, h.windowUndecided⟩

/-- In IDLE the flags `sCan` and `sEnd` and the window may change together, the window running where neither flag is set. -/
theorem SessionInv.idleFlags (h : SessionInv i) (hs : i.st = .idle) {can ends armed : Bool}
    (hw : can = false → ends = false → armed = true) :
    SessionInv { i with pend := { i.pend with sCan := can, sEnd := ends }, idleArmed := armed } := by
  rw [sessionInv_iff] at h ⊢
  simp only [StateFlags, hs] at h ⊢
  exact ⟨h.1, h.2.1, hw⟩

/-- In VEND the stage of the decision may change, as long as it is one of the four. -/
theorem SessionInv.vendFlags (h : SessionInv i) (hs : i.st = .vend) {app den sent armed : Bool}
    (hone : [app, den, sent, armed].count true = 1) :
    SessionInv
      { i with pend := { i.pend with vApp := app, vDen := den }, approvalSent := sent, vendArmed := armed } := by
  rw [sessionInv_iff] at h ⊢
  simp only [StateFlags, hs] at h ⊢
  exact ⟨hone, h.2⟩

/-- The approval of a vend not yet decided (rules R170, R221). -/
theorem SessionInv.approve (h : SessionInv i) (hu : vendUndecided i = true) :
    SessionInv { i with pend := { i.pend with vApp := true }, vendArmed := false } := by
  obtain ⟨hs, -, hDen, hSent⟩ := (vendUndecided_iff i).1 hu
  exact h.vendFlags hs (app := true) (den := i.pend.vDen) (sent := i.approvalSent) (by simp [hDen, hSent])

/-- The denial of a vend not yet decided (rules R170, R222, R229). -/
theorem SessionInv.deny (h : SessionInv i) (hu : vendUndecided i = true) :
    SessionInv { i with pend := { i.pend with vDen := true }, vendArmed := false } := by
  obtain ⟨hs, hApp, -, hSent⟩ := (vendUndecided_iff i).1 hu
  exact h.vendFlags hs (app := i.pend.vApp) (sent := i.approvalSent) (by simp [hApp, hSent])

/-- While the vend window runs the vend is not decided (rule R229). -/
theorem SessionInv.undecided_of_armed (h : SessionInv i) (ha : i.vendArmed = true) : vendUndecided i = true := by
  obtain ⟨hApp, hDen⟩ := h.windowUndecided ha
  have hSent : i.approvalSent ≠ true := fun hs => by
    obtain ⟨-, -, hoff⟩ := h.rule232.sentDecided hs
    simp [ha] at hoff
  exact (vendUndecided_iff i).2 ⟨h.rule41.vendArmedInVend ha, hApp, hDen, by simpa using hSent⟩

/-- `sBeg` may be set in ENABLED and cleared anywhere. -/
theorem SessionInv.sBegFlag (h : SessionInv i) {b : Bool} (hb : b = true → i.st = .enabled) :
    SessionInv { i with pend := { i.pend with sBeg := b } } :=
  ⟨{ h.rule41 with sBegInEnabled := hb }, { h.rule232 with sBegEnabled := hb }, h.windowUndecided⟩

/-- A session with every flag and both windows cleared and the state INACTIVE. -/
theorem sessionInv_cleared (i : Instance) (rstAck : Bool) :
    SessionInv { clearSession i with pend := { nothingPending with rstAck := rstAck } } := by
  simp [sessionInv_iff, StateFlags, clearSession, nothingPending]

/-- RESET (rules R150, R151). -/
theorem sessionInv_cmdReset (i : Instance) (cfg : Config) : SessionInv (cmdReset cfg i).inst := by
  unfold cmdReset
  split
  · exact (sessionInv_cleared i true).inert ..
  · exact sessionInv_cleared i true

/-- A change of state withdraws the flags of the state left and starts the window of the state entered (rule R213), so that R41
is all it needs. -/
theorem sessionInv_setState_of_ne {st : SessionState} (h : Rule41 i) (hne : st ≠ i.st) : SessionInv (setState i st) := by
  obtain ⟨hnotBoth, hdecided, hsBeg, hsCan, hsEnd, hsent, hvend, hidle⟩ := h
  rw [sessionInv_iff, setState, if_neg hne]
  rcases hi : i.st <;> cases st <;> simp_all [StateFlags, leaveState, enterState]

theorem SessionInv.setState (h : SessionInv i) (st : SessionState) : SessionInv (setState i st) := by
  by_cases hst : st = i.st
  · simpa [hst] using h
  · exact sessionInv_setState_of_ne h.rule41 hst

/-- A vend is entered undecided. -/
theorem vendUndecided_setState (h : Rule41 i) (hne : i.st ≠ .vend) : vendUndecided (Machine.setState i .vend) = true := by
  obtain ⟨-, hdecided, -, -, -, hsent, -, -⟩ := h
  rw [vendUndecided_iff, Machine.setState, if_neg (Ne.symm hne)]
  rcases hi : i.st <;> simp_all [leaveState, enterState]

/-- The restart of the idle window (rule R210). -/
theorem sessionInv_restartIdle {k : Kind} {r : CmdResult} (h : SessionInv r.inst) : SessionInv (restartIdle k r) := by
  unfold restartIdle
  split
  · rename_i hw
    obtain ⟨-, -, hidle, -, -⟩ := hw
    exact h.idleFlags hidle fun _ _ => rfl
  · exact h

end

/-! ### The drain -/

section
variable {i : Instance} (h : SessionInv i)
include h

theorem SessionInv.drainOos (cfg : Config) : SessionInv (drainOos cfg i).inst := by
  unfold Machine.drainOos
  split
  · exact sessionInv_cleared i false
  · exact h.inert ..

theorem SessionInv.drainVApp (hp : i.pend.vApp = true) (hd : i.pend.vDen = false) : SessionInv (drainVApp i).inst := by
  have hpend : { i.pend with vApp := false } = { i.pend with vApp := false, vDen := false } := by rw [← hd]
  simp only [Machine.drainVApp, accept, hpend]
  exact h.vendFlags (h.rule41.decidedInVend (.inl hp)) (by decide)

theorem SessionInv.drainVDen (hp : i.pend.vDen = true) : SessionInv (drainVDen i).inst := by
  have hvend : i.st = .vend := h.rule41.decidedInVend (.inr hp)
  refine sessionInv_setState_of_ne { h.rule41 with notBoth := ?_, decidedInVend := fun _ => hvend } ?_
  · simp
  · simp [hvend]

theorem SessionInv.drainSEnd (hp : i.pend.sEnd = true) : SessionInv (drainSEnd i).inst := by
  have hidle : i.st = .idle := h.rule41.sEndInIdle hp
  have hset : SessionInv (Machine.setState { i with pend := { i.pend with sEnd := false } } .enabled) :=
    sessionInv_setState_of_ne { h.rule41 with sEndInIdle := fun _ => hidle } (by simp [hidle])
  exact hset.inert ..

theorem SessionInv.drainSBeg : SessionInv (drainSBeg i).inst :=
  (h.sBegFlag (b := false) (by simp)).setState .idle

theorem SessionInv.drainSCan (hp : i.pend.sCan = true) : SessionInv (drainSCan i).inst :=
  h.idleFlags (h.rule41.sCanInIdle hp) fun _ _ => rfl

/-- Every case of the drain (rules R160 to R168). -/
theorem SessionInv.drain (cfg : Config) : SessionInv (drain cfg i).inst := by
  obtain ⟨-, hd⟩ | ⟨-, -, hd⟩ | ⟨-, -, hp, hd⟩ | ⟨-, -, -, hp, hd⟩ | ⟨-, -, -, -, hp, hd⟩ | ⟨-, -, -, -, -, -, hd⟩ |
    ⟨-, -, -, -, -, -, hp, hd⟩ | ⟨-, hd⟩ := drain_cases cfg i
  · rw [hd]; exact h.drainOos cfg
  · rw [hd]; exact h.inert ..
  · rw [hd]; exact h.drainVApp hp (by simpa [hp] using h.rule41.notBoth)
  · rw [hd]; exact h.drainVDen hp
  · rw [hd]; exact h.drainSEnd hp
  · rw [hd]; exact h.drainSBeg
  · rw [hd]; exact h.drainSCan hp
  · rw [hd]; exact h

/-! ### The commands -/

/-- A refused command sets `oos` only (rule R212). -/
theorem SessionInv.oos (k : Kind) : SessionInv (oos k i).inst := h.inert ..

theorem SessionInv.cmdConfigData (cfg : Config) : SessionInv (cmdConfigData cfg i).inst := by
  unfold Machine.cmdConfigData
  split
  · exact h.setState .disabled
  · exact h.setState .disabled
  all_goals exact h.oos _

theorem SessionInv.cmdMaxMinPrices (cfg : Config) : SessionInv (cmdMaxMinPrices cfg i).inst := by
  unfold Machine.cmdMaxMinPrices
  split
  · exact h
  · exact h
  all_goals exact h.oos _

/-- A vend begins undecided with its window running, and is decided at once under `AUTO_APPROVE` (rule R170). -/
theorem SessionInv.beginVend (cfg : Config) (hs : i.st = .idle) (price item : U16) :
    SessionInv (beginVend cfg i price item) := by
  have hctx : SessionInv { i with ctx := { i.ctx with price := price, item := item } } := h.inert ..
  have hvend := hctx.setState .vend
  have hopen := vendUndecided_setState hctx.rule41 (by simp [hs])
  unfold Machine.beginVend
  split
  · split
    · exact hvend.approve hopen
    · exact hvend.deny hopen
  · exact hvend

theorem SessionInv.cmdVendRequest (cfg : Config) (price item : U16) :
    SessionInv (cmdVendRequest price item cfg i).inst := by
  unfold Machine.cmdVendRequest
  split
  · rename_i hidle
    exact h.beginVend cfg hidle.1 price item
  · split
    · exact h
    · exact h.oos _

theorem SessionInv.cmdVendCancel (cfg : Config) : SessionInv (cmdVendCancel cfg i).inst := by
  unfold Machine.cmdVendCancel
  split
  · rename_i hvend
    obtain ⟨hs, hSent⟩ := hvend
    exact h.vendFlags hs (sent := i.approvalSent) (by simp [hSent])
  · split
    · exact h
    · exact h.oos _

theorem SessionInv.cmdVendSuccess (cfg : Config) : SessionInv (cmdVendSuccess cfg i).inst := by
  unfold Machine.cmdVendSuccess
  split
  · have hnotified : SessionInv (notify i (.saleCompleted i.ctx.price i.ctx.item)) := h.inert ..
    exact hnotified.setState .idle
  · split
    · exact h
    · exact h.oos _

theorem SessionInv.cmdVendFailure (cfg : Config) : SessionInv (cmdVendFailure cfg i).inst := by
  unfold Machine.cmdVendFailure
  split
  · exact h.setState .idle
  · exact h
  all_goals exact h.oos _

/-- A session that owes its end is IDLE with its window stopped (rule R174). -/
theorem SessionInv.owingEnd : SessionInv (owingEnd i) :=
  (h.setState .idle).idleFlags (setState_st i .idle) (by simp)

theorem SessionInv.cmdSessionComplete (cfg : Config) : SessionInv (cmdSessionComplete cfg i).inst := by
  unfold Machine.cmdSessionComplete
  split
  · exact h.owingEnd
  · exact h.owingEnd
  · exact h
  all_goals exact h.oos _

theorem SessionInv.cmdCashSale (cfg : Config) : SessionInv (cmdCashSale cfg i).inst := by
  unfold Machine.cmdCashSale
  split
  · exact h.oos _
  · exact h

theorem SessionInv.cmdReaderDisable (cfg : Config) : SessionInv (cmdReaderDisable cfg i).inst := by
  unfold Machine.cmdReaderDisable
  split
  · exact h.setState .disabled
  · exact h.oos _

theorem SessionInv.cmdReaderEnable (cfg : Config) : SessionInv (cmdReaderEnable cfg i).inst := by
  unfold Machine.cmdReaderEnable
  split
  · exact h.setState .enabled
  · exact h.oos _

theorem SessionInv.cmdReaderCancel (cfg : Config) : SessionInv (cmdReaderCancel cfg i).inst := by
  unfold Machine.cmdReaderCancel
  split
  · exact h.sBegFlag (by simp)
  · exact h.oos _

theorem SessionInv.cmdRequestId (cfg : Config) : SessionInv (cmdRequestId cfg i).inst := by
  unfold Machine.cmdRequestId
  split
  · exact h
  · exact h.oos _

/-- Every command rule keeps the session invariants. -/
theorem SessionInv.ruleOf (r : Instr) (cfg : Config) : SessionInv (ruleOf r cfg i).inst := by
  cases r with
  | reset => exact sessionInv_cmdReset i cfg
  | configData => exact h.cmdConfigData cfg
  | maxMinPrices => exact h.cmdMaxMinPrices cfg
  | poll => exact h.drain cfg
  | vendRequest p n => exact h.cmdVendRequest cfg p n
  | vendCancel => exact h.cmdVendCancel cfg
  | vendSuccess => exact h.cmdVendSuccess cfg
  | vendFailure => exact h.cmdVendFailure cfg
  | sessionComplete => exact h.cmdSessionComplete cfg
  | cashSale => exact h.cmdCashSale cfg
  | readerDisable => exact h.cmdReaderDisable cfg
  | readerEnable => exact h.cmdReaderEnable cfg
  | readerCancel => exact h.cmdReaderCancel cfg
  | requestId => exact h.cmdRequestId cfg

/-! ### The host's calls -/

theorem SessionInv.applyRequestSession (f : U16) : SessionInv (applyRequestSession f i).1 := by
  unfold Machine.applyRequestSession
  split
  · rename_i henabled
    have hctx : SessionInv { i with ctx := { i.ctx with funds := f } } := h.inert ..
    exact hctx.sBegFlag fun _ => henabled.1
  · exact h

theorem SessionInv.applyApproveVend : SessionInv (applyApproveVend i).1 := by
  unfold Machine.applyApproveVend
  split
  · exact h.approve ‹_›
  · exact h

theorem SessionInv.applyDenyVend : SessionInv (applyDenyVend i).1 := by
  unfold Machine.applyDenyVend
  split
  · exact h.deny ‹_›
  · exact h

theorem SessionInv.applyCancelSession : SessionInv (applyCancelSession i).1 := by
  unfold Machine.applyCancelSession
  split
  · rename_i hidle
    exact h.idleFlags hidle.1 (ends := i.pend.sEnd) (by simp)
  · split
    · exact h.sBegFlag (by simp)
    · exact h

/-- Every host call keeps the session invariants (rules R220 to R223). -/
theorem SessionInv.applyCall (c : InboundCall) : SessionInv (applyCall c i).1 := by
  cases c with
  | requestSession f => exact h.applyRequestSession f
  | approveVend => exact h.applyApproveVend
  | denyVend => exact h.applyDenyVend
  | cancelSession => exact h.applyCancelSession

/-! ### Steps -/

/-- Every move on one session keeps its invariants. -/
theorem SessionInv.move {cfg : Config} {i' : Instance} (hm : SessionMove cfg i i') : SessionInv i' := by
  cases hm with
  | command r => exact sessionInv_restartIdle (h.ruleOf r cfg)
  | consumed c =>
    have htaken : SessionInv { i with inq := none } := h.inert ..
    exact htaken.applyCall c
  | called c => exact h.inert ..
  | read => exact h.inert ..
  | idleEnded _ idle => exact h.idleFlags idle (ends := i.pend.sEnd) (by simp)
  | vendEnded armed _ => exact h.deny (h.undecided_of_armed armed)

end

/-- A move leaves the sessions, or moves one of them. -/
theorem MoveEffect.sessions {s t : State} (h : MoveEffect s t) :
    t.inst = s.inst ∨
      ∃ a i i', s.instanceAt a = some i ∧ SessionMove s.cfg i i' ∧ t.inst = updateAt a i' s.inst := by
  cases h with
  | word w =>
    obtain ⟨rx, slot, es, hs, -⟩ := receiveWord_fields s w
    exact .inl (by rw [hs])
  | answered r hi => exact .inr ⟨_, _, _, hi, .command r, rfl⟩
  | session es os rs hi hm => exact .inr ⟨_, _, _, hi, hm, rfl⟩
  | @completed a req _ c before after _ =>
    obtain ⟨-, hs⟩ | ⟨m, -, hs⟩ := complete_cases (s.raise before) a req c <;> exact .inl (by rw [hs]; rfl)
  | _ => exact .inl rfl

/-- Every effect keeps the session invariants. -/
theorem MoveEffect.sessionsOk {s t : State} (h : MoveEffect s t) (hs : SessionsOk s) : SessionsOk t := by
  unfold SessionsOk
  obtain hsame | ⟨a, i, i', hi, hm, hput⟩ := h.sessions
  · rw [hsame]; exact hs
  · rw [hput]
    have hinv : SessionInv i := hs _ (mem_of_lookupAt hi)
    exact forall_updateAt hs (hinv.move hm)

/-- Settles O5: a move leaves the sessions or moves one of them, and every move on a session keeps its invariants. -/
theorem everyStepKeepsTheSessionInvariants : Obligations.EveryStepKeepsTheSessionInvariants := fun _ _ =>
  step_keeps_of_effect (P := SessionsOk) (fun _ _ hp => hp) fun _ _ hp he => he.sessionsOk hp

end Sys2Proof.Machine
end

section
/-! LINE, the tables and the hand-off slot: a step keeps the addresses of both tables and the turn in range, the receive step keeps
the partial frame and hands over only frames that decode (rules R21, R29, R30, R34, R84, R126, R127). -/

namespace Sys2Proof.Machine

/-! ### The tables -/

/-- A move keeps the addresses of both tables, and keeps the turn or advances it. -/
theorem MoveEffect.tables {s t : State} (h : MoveEffect s t) :
    t.inst.map Prod.fst = s.inst.map Prod.fst ∧ t.mirror.map Prod.fst = s.mirror.map Prod.fst ∧
      (t.turn = s.turn ∨ t.turn = (s.turn + 1) % s.cfg.addrs.length) := by
  cases h with
  | word w =>
    obtain ⟨rx, slot, es, hs, -⟩ := receiveWord_fields s w
    rw [hs]
    exact ⟨rfl, rfl, .inl rfl⟩
  | answered _ _ => exact ⟨updateAt_keys .., rfl, .inl rfl⟩
  | session _ _ _ _ _ => exact ⟨updateAt_keys .., rfl, .inl rfl⟩
  | mirror _ _ _ _ => exact ⟨rfl, updateAt_keys .., .inl rfl⟩
  | started _ _ => exact ⟨rfl, updateAt_keys .., .inl rfl⟩
  | @completed a req _ c before after _ =>
    obtain ⟨-, hs⟩ | ⟨m, -, hs⟩ := complete_cases (s.raise before) a req c <;> rw [hs]
    · exact ⟨rfl, rfl, .inr rfl⟩
    · exact ⟨rfl, updateAt_keys .., .inr rfl⟩
  | _ => exact ⟨rfl, rfl, .inl rfl⟩

/-- Every effect keeps the tables and the turn well formed. -/
theorem MoveEffect.tablesOk {s t : State} (h : MoveEffect s t) (hs : TablesOk s) : TablesOk t := by
  have hcfg : t.cfg = s.cfg := h.extends.cfg
  obtain ⟨hinst, hmirror, hturn⟩ := h.tables
  refine ⟨by rw [hcfg]; exact hs.config, fun hr => ?peripheral, fun hr => ?master, ?turn⟩
  case peripheral =>
    obtain ⟨hkeys, hempty⟩ := hs.peripheral (hcfg ▸ hr)
    exact ⟨by rw [hinst, hkeys, hcfg], by simpa [hempty] using hmirror⟩
  case master =>
    obtain ⟨hempty, hkeys⟩ := hs.master (hcfg ▸ hr)
    exact ⟨by simpa [hempty] using hinst, by rw [hmirror, hkeys, hcfg]⟩
  case turn =>
    have hrange : s.turn < s.cfg.addrs.length := hs.turn
    rw [hcfg]
    obtain hturn | hturn := hturn
    · rw [hturn]; exact hrange
    · rw [hturn]; exact Nat.mod_lt _ (by omega)

/-! ### Frames of the right length decode -/

/-- No request is longer than 32 words (rule R68). -/
theorem kindLength_le (k : Kind) : kindLength k ≤ 32 := by cases k <;> decide

/-- The length known from byte 0 alone is that of RESET and POLL (rule R85). -/
theorem lengthFromCommand_eq_some {c : BitVec 3} {n : Nat} (h : lengthFromCommand c = some n) :
    n = 2 ∧ (commandOf c = some .reset ∨ commandOf c = some .poll) := by
  revert h
  rw [lengthFromCommand]
  rcases commandOf c with _ | k
  · simp
  · cases k <;> simp <;> omega

/-- The commands with sub-commands are those whose length byte 0 does not give (rule R85). -/
theorem lengthFromCommand_eq_none {c : BitVec 3} (h : lengthFromCommand c = none) :
    commandOf c ≠ some .reset ∧ commandOf c ≠ some .poll := by
  constructor <;> intro hc <;> simp [lengthFromCommand, hc] at h

/-- A payload of the length of its kind has operands (rules R82, R83). -/
theorem assemble_ok {k : Kind} {p : List Byte} (h : p.length + 3 = kindLength k) : ∃ r, assemble k p = .ok r := by
  have hlen : p.length = kindLength k - 3 := by omega
  cases k <;> simp only [kindLength] at h hlen
  case reset | poll => omega
  case configData | maxMinPrices | vendRequest | cashSale =>
    obtain ⟨x, y, z, u, rfl⟩ : ∃ x y z u, p = [x, y, z, u] := List.length_eq_four.1 hlen
    exact ⟨_, rfl⟩
  case vendSuccess =>
    obtain ⟨x, y, rfl⟩ := List.length_eq_two.1 hlen
    exact ⟨_, rfl⟩
  case requestId => exact ⟨_, if_pos hlen⟩
  all_goals
    obtain rfl := List.length_eq_zero_iff.1 hlen
    exact ⟨_, rfl⟩

/-- A frame of one byte that needs no sub-command stands for RESET or POLL. -/
theorem decode_ok_of_command {b0 : Byte} {n : Nat} (h : lengthFromCommand (commandCode b0) = some n) :
    ∃ r, decode [b0] = .ok r := by
  obtain ⟨-, hc | hc⟩ := lengthFromCommand_eq_some h
  · exact ⟨.reset, by simp [decode, hc, assemble, noOperands]⟩
  · exact ⟨.poll, by simp [decode, hc, assemble, noOperands]⟩

/-- What a frame with a sub-command byte decodes to. -/
theorem decode_sub {b0 b1 : Byte} {rest : List Byte} {k : Kind} (hnone : lengthFromCommand (commandCode b0) = none)
    (hk : kindOf (commandCode b0) b1 = some k) : decode (b0 :: b1 :: rest) = assemble k rest := by
  obtain ⟨hreset, hpoll⟩ := lengthFromCommand_eq_none hnone
  rw [kindOf] at hk
  rcases hc : commandOf (commandCode b0) with _ | c
  · simp [hc] at hk
  · cases c <;> simp_all [decode, decodeSub]

/-- A frame with a sub-command byte and the length of rule R84, its checksum not counted, stands for a request. -/
theorem decode_ok_of_reqLen {b0 b1 : Byte} {rest : List Byte} (hnone : lengthFromCommand (commandCode b0) = none)
    (hlen : reqLen (commandCode b0) b1 = some (rest.length + 3)) : ∃ r, decode (b0 :: b1 :: rest) = .ok r := by
  obtain ⟨k, hk, hn⟩ := Option.map_eq_some_iff.1 hlen
  rw [decode_sub hnone hk]
  exact assemble_ok hn.symm

/-! ### The partial frame -/

section
variable {cfg : Config} {a : Addr5} {buf : List Byte}

/-- The first byte of a frame, where it is for an owned address and names a command (rule R126). -/
theorem rxOk_startFrame (s : State) (d : Byte) : RxOk s.cfg (startFrame s d).1 := by
  unfold startFrame
  split
  · rename_i hown
    have hmem : addressOf d ∈ s.cfg.ownAddrs := by simpa [State.owns] using hown
    split
    · trivial
    · rename_i k hk
      refine ⟨hmem, rfl, ?_⟩
      rcases hl : lengthFromCommand (commandCode d) with _ | n
      · exact ⟨d, rfl, by simp [hk], hl⟩
      · obtain ⟨rfl, -⟩ := lengthFromCommand_eq_some hl
        exact ⟨by simp, by decide, .inl ⟨d, rfl, hl⟩⟩
  · trivial

/-- A partial frame whose length is known may grow up to that length. -/
theorem RxOk.grow {n : Nat} (h : RxOk cfg (.collect a buf (some n))) (d : Byte) (hlen : buf.length + 1 < n) :
    RxOk cfg (.collect a (buf ++ [d]) (some n)) := by
  obtain ⟨hown, hhead, -, hmax, ⟨b0, rfl, hl⟩ | ⟨b0, b1, rest, rfl, hnone, hl⟩⟩ := h
  · obtain ⟨rfl, -⟩ := lengthFromCommand_eq_some hl
    simp at hlen
  · exact ⟨hown, hhead, by simpa using hlen, hmax, .inr ⟨b0, b1, rest ++ [d], rfl, hnone, hl⟩⟩

/-- The bytes of a frame that only its checksum completes stand for a request. -/
theorem RxOk.decode_ok {n : Nat} (h : RxOk cfg (.collect a buf (some n))) (hlen : buf.length + 1 = n) :
    ∃ r, decode buf = .ok r := by
  obtain ⟨-, -, -, -, ⟨b0, rfl, hl⟩ | ⟨b0, b1, rest, rfl, hnone, hl⟩⟩ := h
  · exact decode_ok_of_command hl
  · exact decode_ok_of_reqLen hnone (by simpa [← hlen] using hl)

/-- The sub-command byte of a frame gives its length (rules R84, R126). -/
theorem RxOk.subcommand {b0 b1 : Byte} {n : Nat} (h : RxOk cfg (.collect a [b0] none))
    (hl : reqLen (commandCode b0) b1 = some n) : RxOk cfg (.collect a [b0, b1] (some n)) ∧ 2 < n := by
  obtain ⟨hown, hhead, c0, hc0, -, hnone⟩ := h
  obtain rfl : b0 = c0 := List.singleton_inj.1 hc0
  obtain ⟨k, hk, rfl⟩ := Option.map_eq_some_iff.1 hl
  have hlong : 2 < kindLength k := by
    rw [lengthFromCommand_eq] at hnone
    have hkind := kindOf_eq_some hk
    cases k <;> simp_all [kindLength]
  exact ⟨⟨hown, hhead, hlong, kindLength_le k, .inr ⟨b0, b1, [], rfl, hnone, hl⟩⟩, hlong⟩

end

/-! ### The receive step -/

/-- A byte of a frame of known length keeps the partial frame, and completes only a frame that may be handed over. -/
theorem collectFrame_keeps {s : State} {a : Addr5} {buf : List Byte} {n : Nat}
    (h : RxOk s.cfg (.collect a buf (some n))) (hslot : SlotOk s.cfg s.rxSlot) (d : Byte) :
    RxOk s.cfg (s.collectFrame a (buf ++ [d]) n).rx ∧ SlotOk s.cfg (s.collectFrame a (buf ++ [d]) n).rxSlot := by
  by_cases hshort : (buf ++ [d]).length < n
  · rw [collectFrame_short hshort]
    exact ⟨h.grow d (by simpa using hshort), hslot⟩
  · rcases hv : checksumValid (buf ++ [d]) with _ | _
    · rw [collectFrame_invalid hshort hv]
      exact ⟨trivial, hslot⟩
    · rw [collectFrame_valid hshort hv]
      refine ⟨trivial, fun b f hf => ?_⟩
      obtain ⟨hown, hhead, hmore, -, -⟩ := id h
      have hlen : buf.length + 1 = n := by
        simp at hshort
        omega
      have htake : (buf ++ [d]).take (n - 1) = buf := by simp [← hlen]
      obtain ⟨rfl, rfl⟩ : a = b ∧ buf = f := by simpa [htake] using hf
      exact ⟨hown, hhead, h.decode_ok hlen⟩

/-- The receive step keeps the partial frame and the hand-off slot well formed (rule R126). -/
theorem receiveWord_keeps {s : State} (w : Word9) (hrx : RxOk s.cfg s.rx) (hslot : SlotOk s.cfg s.rxSlot) :
    RxOk s.cfg (receiveWord s w).rx ∧ SlotOk s.cfg (receiveWord s w).rxSlot := by
  rcases hm : modeOf w with _ | _
  case true =>
    rw [receiveWord_start hm]
    exact ⟨rxOk_startFrame s (dataOf w), hslot⟩
  rcases hr : s.rx with _ | _ | ⟨a, buf, _ | n⟩
  case idle | skip =>
    rw [receiveWord_between hm (by rw [hr]; rfl)]
    exact ⟨hrx, hslot⟩
  case collect.some =>
    rw [receiveWord_known hm hr]
    exact collectFrame_keeps (hr ▸ hrx) hslot (dataOf w)
  case collect.none =>
    rw [hr] at hrx
    obtain ⟨-, -, b0, rfl, -, -⟩ := id hrx
    rw [receiveWord_sub hm hr]
    rcases hl : reqLen (commandCode b0) (dataOf w) with _ | n
    · exact ⟨trivial, hslot⟩
    · obtain ⟨hgrown, hmore⟩ := hrx.subcommand hl
      simp only [collectFrame_short (s := s) (a := a) (buf := [b0, dataOf w]) hmore]
      exact ⟨hgrown, hslot⟩

/-! ### Steps -/

/-- A move leaves the partial frame and the hand-off slot, or empties the slot, or receives a word. -/
theorem MoveEffect.line {s t : State} (h : MoveEffect s t) :
    (t.rx = s.rx ∧ (t.rxSlot = s.rxSlot ∨ t.rxSlot = none)) ∨ ∃ w, t = receiveWord s w := by
  cases h with
  | word w => exact .inr ⟨w, rfl⟩
  | discarded a => exact .inl ⟨rfl, .inr rfl⟩
  | answered _ _ => exact .inl ⟨rfl, .inr rfl⟩
  | @completed a req _ c before after _ =>
    obtain ⟨-, hs⟩ | ⟨m, -, hs⟩ := complete_cases (s.raise before) a req c <;> rw [hs] <;>
      exact .inl ⟨rfl, .inl rfl⟩
  | _ => exact .inl ⟨rfl, .inl rfl⟩

/-- Every effect keeps the invariant of LINE. -/
theorem MoveEffect.lineInv {s t : State} (h : MoveEffect s t) (hs : LineInv s) : LineInv t := by
  obtain ⟨htables, hrx, hslot⟩ := hs
  have hcfg : t.cfg = s.cfg := h.extends.cfg
  refine ⟨h.tablesOk htables, ?rx, ?slot⟩ <;> rw [hcfg] <;> obtain ⟨hrx', hslot'⟩ | ⟨w, rfl⟩ := h.line
  case rx.inl => rw [hrx']; exact hrx
  case rx.inr => exact (receiveWord_keeps w hrx hslot).1
  case slot.inl =>
    obtain hsame | hempty := hslot'
    · rw [hsame]; exact hslot
    · simp [hempty, SlotOk]
  case slot.inr => exact (receiveWord_keeps w hrx hslot).2

/-- Settles O6: the tables keep their addresses, and the receive step, the only one to write the partial frame or to fill the
slot, keeps both well formed. -/
theorem everyStepKeepsTheLineInvariant : Obligations.EveryStepKeepsTheLineInvariant := fun _ _ =>
  step_keeps_of_effect (P := LineInv) (fun _ _ hp => ⟨{ hp.tables with }, hp.rx, hp.slot⟩) fun _ _ hp he => he.lineInv hp

end Sys2Proof.Machine
end

section
/-! The mirrors and the transaction in flight: a completed transaction keeps the invariant of its mirror, because its request was
selectable and its effect happens only where the response was expected (rules R34 to R37, R242, R250 to R269). -/

namespace Sys2Proof.Machine

/-! ### Slots -/

/-- `m'` is `m` but for its two slots. -/
def SameButSlots (m m' : MInstance) : Prop := ∃ host out, m' = { m with hostSlot := host, outSlot := out }

theorem SameButSlots.refl (m : MInstance) : SameButSlots m m := ⟨m.hostSlot, m.outSlot, rfl⟩

theorem MirrorHostMove.sameButSlots {m m' : MInstance} (h : MirrorHostMove m m') : SameButSlots m m' := by
  cases h with
  | commanded c => exact ⟨some c, m.outSlot, rfl⟩
  | read => exact ⟨m.hostSlot, none, rfl⟩

theorem selectRequest_sameButSlots (cfg : Config) (a : Addr5) (m : MInstance) :
    SameButSlots m (selectRequest cfg a m).2.m := by
  obtain hm | hm := selectRequest_mirror cfg a m
  · rw [hm]; exact .refl m
  · rw [hm]; exact ⟨none, m.outSlot, rfl⟩

theorem endHostCmd_sameButSlots (req : Instr) (m : MInstance) : SameButSlots m (endHostCmd req m) := by
  unfold endHostCmd
  split
  · exact .refl m
  · split
    · exact ⟨none, m.outSlot, rfl⟩
    · exact .refl m

/-- The invariant of a mirror does not look at its slots. -/
theorem MirrorInv.slots {cfg : Config} {m m' : MInstance} (h : MirrorInv cfg m) (hm : SameButSlots m m') :
    MirrorInv cfg m' := by
  obtain ⟨host, out, rfl⟩ := hm
  exact { h with }

/-- The requests a mirror may have sent depend on the handshake step, the session and the item only. -/
theorem Selectable.congr {cfg : Config} {a : Addr5} {m m' : MInstance} {req : Instr} (h : Selectable cfg a m req)
    (hs : m'.hs = m.hs) (mst : m'.mst = m.mst) (approved : m'.approved = m.approved) (endSt : m'.endSt = m.endSt)
    (item : m'.item = m.item) : Selectable cfg a m' req := by
  have happlies (c : HostCmd) : commandApplies c m' = commandApplies c m := by
    simp only [commandApplies, mst, approved, endSt]
  rw [Selectable] at h ⊢
  simp only [happlies, hs, mst, endSt, item]
  split
  · simpa only [*, if_true] using h
  · rw [if_neg ‹_›] at h
    rcases hh : m.hs <;> simp_all [selectRequest]

theorem Selectable.slots {cfg : Config} {a : Addr5} {m m' : MInstance} {req : Instr} (h : Selectable cfg a m req)
    (hm : SameButSlots m m') : Selectable cfg a m' req := by
  obtain ⟨host, out, rfl⟩ := hm
  exact h.congr rfl rfl rfl rfl rfl

/-! ### The request selected -/

/-- What a mirror selects is selectable (rules R242, R272). -/
theorem selectable_selectRequest (cfg : Config) (a : Addr5) (m : MInstance) :
    Selectable cfg a m (selectRequest cfg a m).1 := by
  by_cases hrun : m.hs = .hRun
  · rw [Selectable, if_pos hrun]
    simp only [selectRequest, hrun, selectRun]
    split
    · rename_i howed
      exact .inr (.inl ⟨howed.1, howed.2, rfl⟩)
    · split
      · exact .inl rfl
      · rename_i c _
        split
        · rename_i happ
          exact .inr (.inr ⟨c, by rw [← applicable_eq_table]; exact happ, hostRequest_eq_table c m⟩)
        · exact .inl rfl
  · rw [Selectable, if_neg hrun]

/-- The requests of the handshake, step by step (rule R242). -/
theorem selectable_handshake {cfg : Config} {a : Addr5} {m : MInstance} {req : Instr} (h : Selectable cfg a m req)
    (hrun : m.hs ≠ .hRun) : req = (selectRequest cfg a m).1 := by
  rwa [Selectable, if_neg hrun] at h

/-! ### Restarts and misses -/

section
variable {cfg : Config} {a : Addr5} {m : MInstance}

/-- A restarted mirror meets the invariant at every step before CONFIG_DATA is answered (rule R252). -/
theorem mirrorInv_restart (cfg : Config) (m : MInstance) {hs : HsStep} (hu : hs.unlearned = true) :
    MirrorInv cfg (restart cfg m hs) where
  misses := Nat.zero_le _
  unlearned := fun _ => ⟨rfl, rfl⟩
  handshake := fun h => by simp [restart, hu] at h
  running := fun h => by
    obtain rfl : hs = .hRun := h
    simp [HsStep.unlearned] at hu
  approved := fun h => by simp [restart] at h
  ending := fun h => by simp [restart] at h

theorem MirrorInv.notify {n : MNotification} (h : MirrorInv cfg m) : MirrorInv cfg (notifyMaster m n).m :=
  h.slots ⟨m.hostSlot, some n, rfl⟩

/-- A miss counts, or takes the mirror offline at `MAX_POLL_MISSES` (rules R253, R255). -/
theorem MirrorInv.miss (h : MirrorInv cfg m) (a : Addr5) (req : Instr) : MirrorInv cfg (missResponse cfg a req m).m := by
  unfold missResponse
  split
  · dsimp only
    split
    · exact (mirrorInv_restart cfg _ (by decide)).notify
    · exact { h with misses := by simp; omega }
  · exact h

/-- A valid response ends the run of misses (rule R250). -/
theorem MirrorInv.missesCleared (h : MirrorInv cfg m) : MirrorInv cfg { m with misses := 0 } :=
  { h with misses := Nat.zero_le _ }

/-! ### Effects of expected responses -/

/-- The invariant of a mirror in H_RUN. -/
theorem mirrorInv_of_running (hrun : m.hs = .hRun) (hmisses : m.misses ≤ cfg.maxPollMisses) (hst : m.mst ≠ .inactive)
    (happroved : m.approved = true → m.mst = .vend) (hending : m.endSt ≠ .eNone → m.mst = .idle) : MirrorInv cfg m where
  misses := hmisses
  unlearned := fun h => by simp [hrun, HsStep.unlearned] at h
  handshake := fun _ h => absurd hrun h
  running := fun _ => hst
  approved := happroved
  ending := hending

theorem MirrorInv.endHostCmd {req : Instr} (h : MirrorInv cfg m) : MirrorInv cfg (endHostCmd req m) :=
  h.slots (endHostCmd_sameButSlots req m)

/-- Outside a session no approval and no end of session is under way. -/
theorem MirrorInv.noSession (h : MirrorInv cfg m) (hst : m.mst = .disabled ∨ m.mst = .enabled) :
    m.approved ≠ true ∧ m.endSt = .eNone := by
  have hvend : m.mst ≠ .vend := by rcases hst with hst | hst <;> simp [hst]
  have hidle : m.mst ≠ .idle := by rcases hst with hst | hst <;> simp [hst]
  exact ⟨fun happ => hvend (h.approved happ), not_not.1 fun hend => hidle (h.ending hend)⟩

/-- The effect of an expected event (rules R263 to R268). -/
theorem MirrorInv.eventEffect (h : MirrorInv cfg m) (a : Addr5) (hrun : m.hs = .hRun) {e : PollEvent}
    (he : eventExpected m e = true) : MirrorInv cfg (eventEffect cfg a m e).m := by
  cases e with
  | justReset => exact mirrorInv_restart cfg m (by decide)
  | outOfSequence => exact mirrorInv_restart cfg m (by decide)
  | beginSession f =>
    have hst : m.mst = .enabled := by simpa [eventExpected] using he
    obtain ⟨hno, -⟩ := h.noSession (.inr hst)
    exact .notify (mirrorInv_of_running hrun h.misses (by simp) (fun happ => absurd happ hno) fun _ => rfl)
  | vendApproved v =>
    obtain ⟨hst, -⟩ : m.mst = .vend ∧ m.approved = false := by simpa [eventExpected] using he
    exact MirrorInv.notify { h with approved := fun _ => hst }
  | vendDenied =>
    obtain ⟨hst, hno⟩ : m.mst = .vend ∧ m.approved = false := by simpa [eventExpected] using he
    exact .notify (mirrorInv_of_running hrun h.misses (by simp) (by simp [hno]) fun _ => rfl)
  | endSession => exact .notify (mirrorInv_of_running hrun h.misses (by simp) (by simp) (by simp))
  | cancelRequest =>
    have hst : m.mst = .idle := by simpa [eventExpected] using he
    exact MirrorInv.notify { h with ending := fun _ => hst }

/-- The effect of an expected response to a POLL (rules R258, R263 to R269). -/
theorem MirrorInv.pollEffect (h : MirrorInv cfg m) (a : Addr5) {c : ResponseClass} (hexp : pollExpected m c = true) :
    MirrorInv cfg (pollEffect cfg a m c).m := by
  rcases hh : m.hs
  case hWaitJr =>
    obtain ⟨hst, hpcfg⟩ := h.unlearned (by rw [hh]; rfl)
    simp only [Machine.pollEffect, hh]
    split
    · exact { h with
        unlearned := fun _ => ⟨hst, hpcfg⟩
        handshake := fun hu => by simp [HsStep.unlearned] at hu
        running := fun hr => by simp at hr }
    · exact h
  case hRun =>
    simp only [Machine.pollEffect, hh]
    split
    · rename_i r
      split
      · rename_i e he
        have hevent : eventExpected m e = true := by simpa [pollExpected, hh, he] using hexp
        exact h.eventEffect a hh hevent
      · exact h
    · exact h
  all_goals simpa only [Machine.pollEffect, hh] using h

/-- A session that is to end has its SESSION_COMPLETE acknowledged (rules R242, R262). -/
theorem MirrorInv.sessionCompleteEffect (h : MirrorInv cfg m) (a : Addr5) (hrun : m.hs = .hRun) (c : ResponseClass) :
    MirrorInv cfg (responseEffect cfg a .sessionComplete m c).m :=
  .endHostCmd (mirrorInv_of_running hrun h.misses (by simp) (by simp) fun _ => rfl)

/-- The effect of an acknowledged host command (rule R262). -/
theorem MirrorInv.commandEffect (h : MirrorInv cfg m) (a : Addr5) (hrun : m.hs = .hRun) {c : HostCmd}
    (happ : commandApplies c m = true) (cls : ResponseClass) :
    MirrorInv cfg (responseEffect cfg a (commandRequest c m.item) m cls).m := by
  cases c with
  | vendRequest p n =>
    obtain ⟨-, hend⟩ : m.mst = .idle ∧ m.endSt = .eNone := by simpa [commandApplies] using happ
    exact .endHostCmd (mirrorInv_of_running hrun h.misses (by simp) (by simp) fun hne => absurd hend hne)
  | vendOutcome ok =>
    cases ok <;> exact .endHostCmd (mirrorInv_of_running hrun h.misses (by simp) (by simp) fun _ => rfl)
  | sessionComplete => exact h.sessionCompleteEffect a hrun cls
  | cashSale p n => exact h.endHostCmd
  | readerDisable =>
    obtain ⟨hno, hend⟩ := h.noSession (by simpa [commandApplies] using happ)
    exact .endHostCmd (mirrorInv_of_running hrun h.misses (by simp) (fun h => absurd h hno) fun hne => absurd hend hne)
  | readerEnable =>
    obtain ⟨hno, hend⟩ := h.noSession (by simpa [commandApplies] using happ)
    have hnotEnable : m.hs ≠ .hEnable := by simp [hrun]
    simp only [commandRequest, responseEffect, if_neg hnotEnable]
    exact .endHostCmd (mirrorInv_of_running hrun h.misses (by simp) (fun h => absurd h hno) fun hne => absurd hend hne)
  | readerCancel => exact h.endHostCmd

/-- The effect of the expected answer to a handshake request (rules R256 to R261). -/
theorem MirrorInv.handshakeEffect (h : MirrorInv cfg m) (a : Addr5) (hrun : m.hs ≠ .hRun) {c : ResponseClass}
    (hexp : expectedResponse (selectRequest cfg a m).1 m c = true) :
    MirrorInv cfg (responseEffect cfg a (selectRequest cfg a m).1 m c).m := by
  obtain ⟨hmisses, hunlearned, hhandshake, -, happroved, hending⟩ := id h
  rcases hh : m.hs <;> simp only [selectRequest, hh] at hexp ⊢
  case hRun => exact absurd hh hrun
  case hWaitJr => exact h.pollEffect a hexp
  case hReset =>
    exact { h with
      unlearned := fun _ => hunlearned (by rw [hh]; rfl)
      handshake := fun hu => by simp [responseEffect, HsStep.unlearned] at hu
      running := fun hr => by simp [responseEffect] at hr }
  case hConfig =>
    obtain ⟨hst, -⟩ := hunlearned (by rw [hh]; rfl)
    rcases c with _ | _ | r | _ | _ <;> simp only [vmcConfigRequest, responseEffect]
    case data =>
      exact {
        misses := hmisses
        unlearned := fun hu => by simp [HsStep.unlearned] at hu
        handshake := fun _ _ => rfl
        running := fun hr => by simp at hr
        approved := fun happ => by simp [happroved happ] at hst
        ending := fun hend => by simp [hending hend] at hst }
    all_goals exact h
  case hMaxMin | hExpId =>
    have hst : m.mst = .disabled := hhandshake (by rw [hh]; rfl) hrun
    exact { h with
      unlearned := fun hu => by simp [responseEffect, vmcIdRequest, HsStep.unlearned] at hu
      handshake := fun _ _ => hst
      running := fun hr => by simp [responseEffect, vmcIdRequest] at hr }
  case hEnable =>
    obtain ⟨hno, hend⟩ := h.noSession (.inl (hhandshake (by rw [hh]; rfl) hrun))
    simp only [responseEffect, hh, if_true]
    exact mirrorInv_of_running rfl hmisses (by simp) (fun h => absurd h hno) fun hne => absurd hend hne

/-- The effect of an expected answer to a request the mirror can have sent. -/
theorem MirrorInv.responseEffect (h : MirrorInv cfg m) {a : Addr5} {req : Instr} (hsel : Selectable cfg a m req)
    {c : ResponseClass} (hexp : expectedResponse req m c = true) : MirrorInv cfg (responseEffect cfg a req m c).m := by
  by_cases hrun : m.hs = .hRun
  · rw [Selectable, if_pos hrun] at hsel
    obtain rfl | ⟨-, -, rfl⟩ | ⟨cmd, happ, rfl⟩ := hsel
    · exact h.pollEffect a hexp
    · exact h.sessionCompleteEffect a hrun c
    · exact h.commandEffect a hrun happ c
  · obtain rfl := selectable_handshake hsel hrun
    exact h.handshakeEffect a hrun hexp

/-- Whatever ends a transaction keeps the invariant of its mirror (rule R250). -/
theorem MirrorInv.completeMirror (h : MirrorInv cfg m) {a : Addr5} {req : Instr} (hsel : Selectable cfg a m req)
    (c : ResponseClass) : MirrorInv cfg (completeMirror cfg a req c m).m := by
  have hvalid (hc : c = .ack ∨ ∃ r, c = .data r) : MirrorInv cfg (Machine.completeMirror cfg a req c m).m := by
    rw [completeMirror_valid hc]
    split
    · rename_i hexp
      have hsel' : Selectable cfg a { m with misses := 0 } req := hsel.congr rfl rfl rfl rfl rfl
      exact h.missesCleared.responseEffect hsel' hexp
    · exact mirrorInv_restart cfg m (by decide)
  have hmissed (hc : c = .nak ∨ c = .invalid ∨ c = .noResponse) :
      MirrorInv cfg (Machine.completeMirror cfg a req c m).m := by
    rw [completeMirror_miss hc]
    exact h.miss a req
  cases c with
  | ack => exact hvalid (.inl rfl)
  | data r => exact hvalid (.inr ⟨r, rfl⟩)
  | nak => exact hmissed (.inl rfl)
  | invalid => exact hmissed (.inr (.inl rfl))
  | noResponse => exact hmissed (.inr (.inr rfl))

end

/-! ### Steps -/

/-- A write to the slots of one mirror leaves what the other and this one may have sent. -/
theorem PhaseOk.updateSlots {s t : State} {a : Addr5} {m m' : MInstance} (h : PhaseOk s) (hm : s.mirrorAt a = some m)
    (hslots : SameButSlots m m') (hcfg : t.cfg = s.cfg) (hturn : t.turn = s.turn) (hphase : t.phase = s.phase)
    (hmirror : t.mirror = updateAt a m' s.mirror) : PhaseOk t := by
  intro b req buf hp
  obtain ⟨haddr, hsel, hmode, hroom⟩ := h b req buf (hphase ▸ hp)
  refine ⟨by rw [State.turnAddress, hcfg, hturn]; exact haddr, fun n hn => ?_, hmode, hcfg ▸ hroom⟩
  rw [State.mirrorAt, hmirror, lookupAt_updateAt] at hn
  rw [hcfg]
  split at hn
  · rename_i hb
    subst hb
    obtain rfl : m' = n := by
      rw [State.mirrorAt] at hm
      simpa [hm] using hn
    exact (hsel m hm).slots hslots
  · exact hsel n hn

/-- A transaction that starts awaits a selectable request with nothing received (rule R241). -/
theorem phaseOk_started {s t : State} {a : Addr5} {m : MInstance} (hturn : s.turnAddress = some a)
    (hm : s.mirrorAt a = some m) (hroom : 0 < s.cfg.maxRspLen) (hcfg : t.cfg = s.cfg) (hturn' : t.turn = s.turn)
    (hphase : t.phase = .mAwait a (selectRequest s.cfg a m).1 [])
    (hmirror : t.mirror = updateAt a (selectRequest s.cfg a m).2.m s.mirror) : PhaseOk t := by
  intro b req buf hp
  rw [hphase] at hp
  obtain ⟨rfl, rfl, rfl⟩ := MPhase.mAwait.inj hp
  refine ⟨by rw [State.turnAddress, hcfg, hturn']; exact hturn, fun n hn => ?_, by simp, hcfg ▸ hroom⟩
  rw [State.mirrorAt] at hm
  obtain rfl : (selectRequest s.cfg a m).2.m = n := by simpa [State.mirrorAt, hmirror, hm] using hn
  rw [hcfg]
  exact (selectable_selectRequest s.cfg a m).slots (selectRequest_sameButSlots s.cfg a m)

/-- A word that does not end the response leaves room for the next (rule R130). -/
theorem PhaseOk.collected {s : State} {a : Addr5} {req : Instr} {buf : List Word9} {w : Word9} (h : PhaseOk s)
    (hphase : s.phase = .mAwait a req buf) (hmode : modeOf w = false) (hroom : buf.length + 1 ≠ s.cfg.maxRspLen) :
    PhaseOk { s with phase := .mAwait a req (buf ++ [w]) } := by
  intro b req' buf' hp
  obtain ⟨rfl, rfl, rfl⟩ := MPhase.mAwait.inj hp
  obtain ⟨haddr, hsel, hclear, hlen⟩ := h a req buf hphase
  refine ⟨haddr, hsel, ?_, ?_⟩
  · intro v hv
    obtain hv | rfl := by simpa using hv
    · exact hclear v hv
    · exact hmode
  · simp only [List.length_append, List.length_singleton]
    omega

/-- Between transactions nothing is awaited. -/
theorem phaseOk_idle {s : State} (h : s.phase = .mIdle) : PhaseOk s := by
  intro a req buf hp
  simp [h] at hp

/-- Every effect keeps the mirrors and the transaction in flight consistent. -/
theorem MoveEffect.mirrorsAndPhase {s t : State} (h : MoveEffect s t) (hs : MasterInv s) :
    (∀ p ∈ t.mirror, MirrorInv s.cfg p.2) ∧ PhaseOk t := by
  obtain ⟨-, -, hroom, hmirrors, hphase⟩ := hs
  have hat {a : Addr5} {m : MInstance} (hm : s.mirrorAt a = some m) : MirrorInv s.cfg m := hmirrors _ (mem_of_lookupAt hm)
  cases h with
  | word w =>
    obtain ⟨rx, slot, es, hw, -⟩ := receiveWord_fields s w
    rw [hw]
    exact ⟨hmirrors, hphase⟩
  | mirror os rs hm hmove =>
    have hslots := hmove.sameButSlots
    exact ⟨forall_updateAt hmirrors ((hat hm).slots hslots), hphase.updateSlots hm hslots rfl rfl rfl rfl⟩
  | started hturn hm =>
    exact ⟨forall_updateAt hmirrors ((hat hm).slots (selectRequest_sameButSlots ..)),
      phaseOk_started hturn hm hroom rfl rfl rfl rfl⟩
  | collected hp hmode hmore => exact ⟨hmirrors, hphase.collected hp hmode hmore⟩
  | @completed a req buf c before after hp =>
    obtain ⟨-, hsel, -, -⟩ := hphase a req buf hp
    obtain ⟨-, hc⟩ | ⟨m, hm, hc⟩ := complete_cases (s.raise before) a req c <;> rw [hc]
    · exact ⟨hmirrors, phaseOk_idle rfl⟩
    · exact ⟨forall_updateAt hmirrors ((hat hm).completeMirror (hsel m hm) c), phaseOk_idle rfl⟩
  | _ => exact ⟨hmirrors, hphase⟩

/-- Every effect keeps the invariant of a MASTER. -/
theorem MoveEffect.masterInv {s t : State} (h : MoveEffect s t) (hs : MasterInv s) : MasterInv t := by
  have hcfg : t.cfg = s.cfg := h.extends.cfg
  obtain ⟨hmirrors, hphase⟩ := h.mirrorsAndPhase hs
  exact ⟨h.tablesOk hs.tables, hcfg ▸ hs.role, hcfg ▸ hs.room, hcfg ▸ hmirrors, hphase⟩

/-- Settles O7: a transaction starts with a selectable request, the host's moves write slots only, and the completion of a
transaction whose request was selectable keeps the invariant of its mirror. -/
theorem everyStepKeepsTheMasterInvariant : Obligations.EveryStepKeepsTheMasterInvariant := fun _ _ =>
  step_keeps_of_effect (P := MasterInv)
    (fun _ _ hp => ⟨{ hp.tables with }, hp.role, hp.room, hp.mirrors, hp.phase⟩) fun _ _ hp he => he.masterInv hp

end Sys2Proof.Machine
end

section
/-! Construction: the fields of a block of either role, and that constructed blocks meet the invariants (rules R42, R43, R310). -/

namespace Sys2Proof.Machine

section
variable {cfg : Config}

/-- The session of an owned address after construction (rule R42). -/
theorem construct_instanceAt {a : Addr5} (hr : cfg.role = .peripheral) (ha : a ∈ cfg.ownAddrs) :
    (State.construct cfg).instanceAt a = some newInstance := by
  simp [State.instanceAt, State.construct, hr, lookupAt_map_const, ha]

/-- A PERIPHERAL has a session for each owned address and no mirror (rules R3, R21). -/
theorem construct_tables_peripheral (hr : cfg.role = .peripheral) :
    (State.construct cfg).inst.map Prod.fst = cfg.ownAddrs ∧ (State.construct cfg).mirror = [] := by
  simp [State.construct, hr, Function.comp_def]

/-- A MASTER has a mirror for each polled address and no session (rules R3, R34). -/
theorem construct_tables_master (hr : cfg.role = .master) :
    (State.construct cfg).inst = [] ∧ (State.construct cfg).mirror.map Prod.fst = cfg.addrs := by
  simp [State.construct, hr, Function.comp_def]

/-- Settles O2: every session is the one the model's `newInstance` writes out. -/
theorem peripheralAfterConstruction : Obligations.PeripheralAfterConstruction := by
  intro cfg hr s
  exact ⟨(construct_tables_peripheral hr).1, fun a ha => construct_instanceAt hr ha, rfl, rfl, rfl, rfl⟩

/-- Settles O3: every mirror is the one the model's `newMirror` writes out. -/
theorem masterAfterConstruction : Obligations.MasterAfterConstruction := by
  intro cfg hr s
  exact ⟨(construct_tables_master hr).2, fun a ha => construct_mirrorAt hr ha, rfl, rfl⟩

/-! ### The invariants after construction -/

theorem construct_tablesOk (hc : configOk cfg = true) : TablesOk (State.construct cfg) where
  config := hc
  peripheral := fun hr => construct_tables_peripheral hr
  master := fun hr => construct_tables_master hr
  turn := by
    obtain ⟨-, ⟨hne, -, -⟩, -⟩ := (configOk_iff cfg).1 hc
    exact List.length_pos_iff.2 hne

/-- After construction LINE collects no frame and no frame is handed over. -/
theorem construct_lineInv (hc : configOk cfg = true) : LineInv (State.construct cfg) where
  tables := construct_tablesOk hc
  rx := trivial
  slot := fun a f h => by simp [State.construct] at h

theorem sessionInv_newInstance : SessionInv newInstance := by
  simp [sessionInv_iff, StateFlags, newInstance]

theorem construct_sessionsOk (cfg : Config) : SessionsOk (State.construct cfg) := by
  intro p hp
  cases hr : cfg.role <;> simp only [State.construct, hr] at hp
  · simp at hp
  · obtain ⟨a, -, rfl⟩ := List.mem_map.1 hp
    exact sessionInv_newInstance

/-- A new mirror is one restarted at H_RESET (rules R43, R252). -/
theorem mirrorInv_newMirror (cfg : Config) : MirrorInv cfg (newMirror cfg) :=
  mirrorInv_restart cfg (newMirror cfg) (hs := .hReset) (by decide)

theorem construct_masterInv (hc : configOk cfg = true) (hr : cfg.role = .master) (hroom : 0 < cfg.maxRspLen) :
    MasterInv (State.construct cfg) where
  tables := construct_tablesOk hc
  role := hr
  room := hroom
  mirrors := by
    intro p hp
    obtain ⟨a, -, rfl⟩ : ∃ a ∈ cfg.addrs, (a, newMirror cfg) = p := by simpa [State.construct, hr] using hp
    exact mirrorInv_newMirror cfg
  phase := phaseOk_idle rfl

/-- A new mirror and a new session are linked: both INACTIVE, the RESET still to come (rule R274). -/
theorem linked_new (cfg : Config) : Linked (newMirror cfg) newInstance where
  state := rfl
  noOos := rfl
  rstAck := fun h => absurd rfl h
  approval := rfl
  ended := by simp [newMirror, newInstance]

/-- A MASTER and a PERIPHERAL constructed for one common address are joined (rules R274, R310). -/
theorem construct_joinedOk {a : Addr5} {cm cp : Config} (hcm : configOk cm = true) (hcp : configOk cp = true)
    (hrm : cm.role = .master) (hrp : cp.role = .peripheral) (ham : cm.addrs = [a]) (hap : cp.ownAddrs = [a])
    (hroom : 31 ≤ cm.maxRspLen) : JoinedOk a (State.construct cm) (State.construct cp) where
  masterRole := hrm
  peripheralRole := hrp
  masterAddrs := ham
  peripheralAddrs := hap
  room := hroom
  masterInv := construct_masterInv hcm hrm (by omega)
  lineInv := construct_lineInv hcp
  sessions := construct_sessionsOk cp
  idle := rfl
  quiet := ⟨rfl, rfl, rfl⟩
  linked := ⟨newMirror cm, newInstance, construct_mirrorAt hrm (by simp [ham]), construct_instanceAt hrp (by simp [hap]),
    linked_new cm⟩

end

/-- Settles O4: each invariant holds of the tables, sessions and mirrors that construction writes. -/
theorem constructionMeetsTheInvariants : Obligations.ConstructionMeetsTheInvariants := by
  have hstandard : configOk Config.standard = true := by decide
  exact ⟨fun cfg hc _ => ⟨construct_lineInv hc, construct_sessionsOk cfg⟩,
    fun _ hc hr hroom => construct_masterInv hc hr hroom,
    ⟨construct_lineInv hstandard, construct_sessionsOk Config.standard⟩,
    fun _ _ _ hcm hcp hrm hrp ham hap hroom => construct_joinedOk hcm hcp hrm hrp ham hap hroom⟩

end Sys2Proof.Machine
end

section
/-! Words received by a PERIPHERAL: the step is LINE's receive step, whose frame is that of `receiveWord_fields` (rules R58,
R113, R126 to R128). -/

namespace Sys2Proof.Machine

/-- The step that receives a word at a PERIPHERAL, in every phase, is LINE's receive step (rules R112, R126). -/
theorem step_rxWord_peripheral {s : State} {w : Word9} {rest : List Move} (h : Offered s .peripheral (.rxWord w) rest) :
    step s = .next (receiveWord { s with agenda := rest } w) := by
  obtain ⟨hc, hrole, ha⟩ := h
  have henabled : enabled { s with agenda := rest } (.rxWord w) = true := by simp [enabled, hrole, peripheralEnabled]
  calc step s = takeMove { s with agenda := rest } (.rxWord w) := step_offered hc ha
    _ = .next (performMove { s with agenda := rest } (.rxWord w)) := takeMove_enabled henabled (by simp)
    _ = .next (receiveWord { s with agenda := rest } w) := by simp [performMove, receive, hrole]

/-- Settles O22: the receive step writes the assembler, the slot and the end of the log only, and the slot only with the
assembler idle again. -/
theorem receivedWordsTouchNoSession : Obligations.ReceivedWordsTouchNoSession := by
  intro s w rest h
  obtain ⟨rx, slot, es, hword, hslot⟩ := receiveWord_fields { s with agenda := rest } w
  have hstep := step_rxWord_peripheral h
  rw [hword] at hstep
  exact ⟨_, hstep, rfl, List.prefix_append .., hslot.resolve_left⟩

end Sys2Proof.Machine
end

section
/-! The encoding of requests: a frame decodes to a request exactly where it is that request's encoding at some address and the
request is well-formed (rules R72, R77 to R84, R90). -/

namespace Sys2Proof

/-! ### The parts of a frame -/

/-- The command a kind belongs to (rules R77, R81). -/
def Kind.command : Kind → Command
  | .reset => .reset
  | .configData | .maxMinPrices => .setup
  | .poll => .poll
  | .vendRequest | .vendCancel | .vendSuccess | .vendFailure | .sessionComplete | .cashSale => .vend
  | .readerDisable | .readerEnable | .readerCancel => .reader
  | .requestId => .expansion

/-- The sub-command byte of a kind; RESET and POLL have none (rule R78). -/
def Kind.subBytes : Kind → List Byte
  | .reset | .poll => []
  | .configData | .vendRequest | .readerDisable | .requestId => [0x00]
  | .maxMinPrices | .vendCancel | .readerEnable => [0x01]
  | .vendSuccess | .readerCancel => [0x02]
  | .vendFailure => [0x03]
  | .sessionComplete => [0x04]
  | .cashSale => [0x05]

/-- The bytes of a frame before its operands: the address byte and the sub-command byte (rules R72, R78). -/
def selector (a : Addr5) (k : Kind) : List Byte := addressByte a (commandNumber k.command) :: k.subBytes

/-- The operand bytes of a request (rules R82, R83). -/
def payload : Instr → List Byte
  | .configData fl cols rows info => [fl, cols, rows, info]
  | .maxMinPrices u v | .vendRequest u v | .cashSale u v => [hi8 u, lo8 u, hi8 v, lo8 v]
  | .vendSuccess n => [hi8 n, lo8 n]
  | .requestId mfr serial model sw => mfr ++ (serial ++ (model ++ sw))
  | _ => []

/-- A request's frame is its selector and its operands. -/
theorem requestBytes_eq (a : Addr5) (r : Instr) : requestBytes a r = selector a r.kind ++ payload r := by
  cases r <;> rfl

theorem wellFormed_requestId (mfr serial model sw : List Byte) :
    (Instr.requestId mfr serial model sw).WellFormed ↔
      mfr.length = 3 ∧ serial.length = 12 ∧ model.length = 12 ∧ sw.length = 2 := by
  simp [Instr.WellFormed, Instr.wellFormed, and_assoc]

/-- The encoding of a well-formed request has the length of rule R82, its checksum counted. -/
theorem requestBytes_length (a : Addr5) {r : Instr} (h : r.WellFormed) :
    (requestBytes a r).length + 1 = kindLength r.kind := by
  cases r with
  | requestId mfr serial model sw => exact Laws.EncodeLength.requestId mfr serial model sw a h
  | _ => rfl

/-! ### Operands -/

theorem noOperands_eq_ok {i r : Instr} {p : List Byte} : noOperands i p = .ok r ↔ p = [] ∧ r = i := by
  cases p <;> simp [noOperands, eq_comm]

theorem oneField_eq_ok {f : U16 → Instr} {p : List Byte} {r : Instr} :
    oneField f p = .ok r ↔ ∃ v, p = [hi8 v, lo8 v] ∧ r = f v := by
  constructor
  · intro h
    unfold oneField at h
    split at h <;> cases h
    exact ⟨_, by simp, rfl⟩
  · rintro ⟨v, rfl, rfl⟩
    simp [oneField]

theorem twoFields_eq_ok {f : U16 → U16 → Instr} {p : List Byte} {r : Instr} :
    twoFields f p = .ok r ↔ ∃ u v, p = [hi8 u, lo8 u, hi8 v, lo8 v] ∧ r = f u v := by
  constructor
  · intro h
    unfold twoFields at h
    split at h <;> cases h
    exact ⟨_, _, by simp, rfl⟩
  · rintro ⟨u, v, rfl, rfl⟩
    simp [twoFields]

theorem fourBytes_eq_ok {f : Byte → Byte → Byte → Byte → Instr} {p : List Byte} {r : Instr} :
    fourBytes f p = .ok r ↔ ∃ w x y z, p = [w, x, y, z] ∧ r = f w x y z := by
  constructor
  · intro h
    unfold fourBytes at h
    split at h <;> cases h
    exact ⟨_, _, _, _, rfl, rfl⟩
  · rintro ⟨w, x, y, z, rfl, rfl⟩
    rfl

/-- The text fields are cut at 3, 15 and 27 bytes, so a payload of 29 bytes is their join (rule R82). -/
theorem textFields_eq_ok {p : List Byte} {r : Instr} :
    textFields p = .ok r ↔ ∃ mfr serial model sw, p = mfr ++ (serial ++ (model ++ sw)) ∧
      r = .requestId mfr serial model sw ∧ r.WellFormed := by
  constructor
  · intro h
    unfold textFields at h
    split at h <;> cases h
    refine ⟨_, _, _, _, ?join, rfl, ?_⟩
    case join =>
      have hmodel : (p.drop 15).take 12 ++ p.drop 27 = p.drop 15 := by
        simpa using List.take_append_drop 12 (p.drop 15)
      have hserial : (p.drop 3).take 12 ++ p.drop 15 = p.drop 3 := by
        simpa using List.take_append_drop 12 (p.drop 3)
      rw [hmodel, hserial, List.take_append_drop]
    · rw [wellFormed_requestId]
      simp only [List.length_take, List.length_drop]
      omega
  · rintro ⟨mfr, serial, model, sw, rfl, rfl, hwf⟩
    obtain ⟨hmfr, hserial, hmodel, hsw⟩ := (wellFormed_requestId ..).1 hwf
    simp [textFields, hmfr, hserial, hmodel, hsw, List.drop_append, List.drop_of_length_le]

/-- The operands of a kind are read from exactly the payloads of its well-formed requests (rules R82, R83). -/
theorem assemble_eq_ok {k : Kind} {p : List Byte} {r : Instr} :
    assemble k p = .ok r ↔ r.kind = k ∧ r.WellFormed ∧ p = payload r := by
  constructor
  · intro h
    cases k
    case configData =>
      obtain ⟨w, x, y, z, rfl, rfl⟩ := fourBytes_eq_ok.1 h
      exact ⟨rfl, rfl, rfl⟩
    case maxMinPrices | vendRequest | cashSale =>
      obtain ⟨u, v, rfl, rfl⟩ := twoFields_eq_ok.1 h
      exact ⟨rfl, rfl, rfl⟩
    case vendSuccess =>
      obtain ⟨v, rfl, rfl⟩ := oneField_eq_ok.1 h
      exact ⟨rfl, rfl, rfl⟩
    case requestId =>
      obtain ⟨mfr, serial, model, sw, rfl, rfl, hwf⟩ := textFields_eq_ok.1 h
      exact ⟨rfl, hwf, rfl⟩
    all_goals
      obtain ⟨rfl, rfl⟩ := noOperands_eq_ok.1 h
      exact ⟨rfl, rfl, rfl⟩
  · rintro ⟨rfl, hwf, rfl⟩
    cases r
    case configData w x y z => exact fourBytes_eq_ok.2 ⟨w, x, y, z, rfl, rfl⟩
    case maxMinPrices u v | vendRequest u v | cashSale u v => exact twoFields_eq_ok.2 ⟨u, v, rfl, rfl⟩
    case vendSuccess v => exact oneField_eq_ok.2 ⟨v, rfl, rfl⟩
    case requestId mfr serial model sw => exact textFields_eq_ok.2 ⟨mfr, serial, model, sw, rfl, rfl, hwf⟩
    all_goals exact noOperands_eq_ok.2 ⟨rfl, rfl⟩

/-! ### Selectors -/

/-- Behind the selector of a kind the decoder reads the operands of that kind (rule R80). -/
theorem decode_selector (a : Addr5) (k : Kind) (p : List Byte) : decode (selector a k ++ p) = assemble k p := by
  have hcmd : commandOf (commandCode (addressByte a (commandNumber k.command))) = some k.command := by simp
  rw [selector, List.cons_append, decode, hcmd]
  cases k <;> rfl

/-- An address byte is its address and the code of the command it names. -/
theorem addressByte_of_commandOf {b0 : Byte} {c : Command} (h : commandOf (commandCode b0) = some c) :
    b0 = addressByte (addressOf b0) (commandNumber c) := by
  rw [← commandNumber_of_commandOf h, addressByte_eta]

/-- The two bytes that select a kind with a sub-command are its selector (rule R78). -/
theorem selector_of_kindOf {b0 sub : Byte} {k : Kind} (hnone : lengthFromCommand (commandCode b0) = none)
    (hk : kindOf (commandCode b0) sub = some k) : [b0, sub] = selector (addressOf b0) k := by
  have hvalues := kindOf_eq_some hk
  rw [lengthFromCommand_eq] at hnone
  cases k
  case reset | poll => simp [hvalues] at hnone
  all_goals
    obtain ⟨hcode, rfl⟩ := hvalues
    rw [selector, ← addressByte_eta b0, hcode]
    simp [Kind.command, Kind.subBytes, commandNumber]

/-- A frame whose code and sub-command byte select no kind does not decode (rule R90). -/
theorem decode_ne_ok_of_kindOf {b0 sub : Byte} {rest : List Byte} (h : kindOf (commandCode b0) sub = none) (r : Instr) :
    decode (b0 :: sub :: rest) ≠ .ok r := by
  rw [kindOf] at h
  rcases hc : commandOf (commandCode b0) with _ | c
  · simp [decode, hc]
  · cases c <;> simp_all [decode, decodeSub]

/-- A frame that decodes begins with a selector (rule R80). -/
theorem decode_ok_selector {b0 : Byte} {rest : List Byte} {r : Instr} (h : decode (b0 :: rest) = .ok r) :
    ∃ k p, b0 :: rest = selector (addressOf b0) k ++ p ∧ assemble k p = .ok r := by
  rcases hl : lengthFromCommand (commandCode b0) with _ | n
  case some =>
    obtain ⟨-, hc | hc⟩ := Machine.lengthFromCommand_eq_some hl
    · exact ⟨.reset, rest, congrArg (· :: rest) (addressByte_of_commandOf hc), by simpa [decode, hc] using h⟩
    · exact ⟨.poll, rest, congrArg (· :: rest) (addressByte_of_commandOf hc), by simpa [decode, hc] using h⟩
  case none =>
    rcases rest with _ | ⟨sub, p⟩
    · obtain ⟨hreset, hpoll⟩ := Machine.lengthFromCommand_eq_none hl
      rcases hc : commandOf (commandCode b0) with _ | c
      · simp [decode, hc] at h
      · cases c <;> simp_all [decode, decodeSub]
    · rcases hk : kindOf (commandCode b0) sub with _ | k
      · exact absurd h (decode_ne_ok_of_kindOf hk r)
      · exact ⟨k, p, congrArg (· ++ p) (selector_of_kindOf hl hk), by rwa [Machine.decode_sub hl hk] at h⟩

/-! ### Requests -/

theorem head?_requestBytes (a : Addr5) (r : Instr) :
    (requestBytes a r).head? = some (addressByte a (commandNumber r.kind.command)) := by
  rw [requestBytes_eq]; rfl

/-- Decoding inverts encoding (rules R80 to R83). -/
theorem decode_requestBytes (a : Addr5) {r : Instr} (h : r.WellFormed) : decode (requestBytes a r) = .ok r := by
  rw [requestBytes_eq, decode_selector]
  exact assemble_eq_ok.2 ⟨rfl, h, rfl⟩

/-- Encoding inverts decoding (rules R80 to R83). -/
theorem requestBytes_of_decode {b0 : Byte} {rest : List Byte} {r : Instr} (h : decode (b0 :: rest) = .ok r) :
    r.WellFormed ∧ b0 :: rest = requestBytes (addressOf b0) r := by
  obtain ⟨k, p, hsel, hasm⟩ := decode_ok_selector h
  obtain ⟨rfl, hwf, rfl⟩ := assemble_eq_ok.1 hasm
  exact ⟨hwf, by rw [hsel, requestBytes_eq]⟩

namespace Machine

/-- Settles O10: the selector chooses the kind, and the operands of the kind are read back from the payload. -/
theorem decodeGivesBackTheEncodedRequest : Obligations.DecodeGivesBackTheEncodedRequest := fun a r h =>
  ⟨decode_requestBytes a h, by simp [head?_requestBytes]⟩

/-- Settles O11: a frame that decodes is a selector and a payload, whose length is that of the kind. -/
theorem decodedFramesAreEncodings : Obligations.DecodedFramesAreEncodings := by
  intro b0 rest r h
  obtain ⟨hwf, heq⟩ := requestBytes_of_decode h
  exact ⟨hwf, heq, by rw [heq]; exact requestBytes_length _ hwf⟩

end Machine

/-! ### Unassigned codes -/

/-! The sub-commands of rule R78 are counted from 0, so the first unassigned one bounds them all. -/

theorem setupKind_eq_none {sub : Byte} : setupKind sub = none ↔ 0x02 ≤ sub := by
  unfold setupKind
  split_ifs <;> simp <;> bv_omega

theorem vendKind_eq_none {sub : Byte} : vendKind sub = none ↔ 0x06 ≤ sub := by
  unfold vendKind
  split_ifs <;> simp <;> bv_omega

theorem readerKind_eq_none {sub : Byte} : readerKind sub = none ↔ 0x03 ≤ sub := by
  unfold readerKind
  split_ifs <;> simp <;> bv_omega

theorem expansionKind_eq_none {sub : Byte} : expansionKind sub = none ↔ 0x01 ≤ sub := by
  unfold expansionKind
  split_ifs <;> simp <;> bv_omega

/-- The codes of rule R90 select no kind, and no others do. -/
theorem kindOf_eq_none {c : BitVec 3} {sub : Byte} :
    kindOf c sub = none ↔ c = 5 ∨ c = 6 ∨ (c = 1 ∧ 0x02 ≤ sub) ∨ (c = 3 ∧ 0x06 ≤ sub) ∨ (c = 4 ∧ 0x03 ≤ sub) ∨
      (c = 7 ∧ 0x01 ≤ sub) := by
  rw [kindOf]
  rcases hc : commandOf c with _ | k
  · have hcode := (commandOf_eq_none c).1 hc
    simp only [true_iff]
    tauto
  · obtain rfl := commandNumber_of_commandOf hc
    cases k <;>
      simp [commandNumber, setupKind_eq_none, vendKind_eq_none, readerKind_eq_none, expansionKind_eq_none]

namespace Machine

/-- Settles O12: the length is that of the kind, and a frame that decodes has one. -/
theorem unassignedEncodingsSelectNoKind : Obligations.UnassignedEncodingsSelectNoKind := fun _ _ _ =>
  ⟨Option.map_eq_none_iff.trans kindOf_eq_none, fun h => decode_ne_ok_of_kindOf (kindOf_eq_none.2 h)⟩

/-- Settles O14: the bytes of five frames and one encoding, evaluated. -/
theorem sampleFramesDecode : Obligations.SampleFramesDecode := by
  unfold Obligations.SampleFramesDecode
  decide

end Machine

end Sys2Proof
end

section
/-! Frames on the line: LINE hands over the bytes of an encoded request (rules R76, R84, R85, R126, R127), and the master reads
back the bytes of a response (rules R76, R123, R131). -/

namespace Sys2Proof.Machine

/-! ### A request received -/

/-- A mode-flagged word for an owned address and an assigned command starts a frame, whatever LINE was doing (rule R126). -/
theorem receiveWord_address {s : State} {b0 : Byte} {c : Command} (hown : addressOf b0 ∈ s.cfg.ownAddrs)
    (hc : commandOf (commandCode b0) = some c) :
    receiveWord s (mkWord true b0) =
      { s with
        rx := .collect (addressOf b0) [b0] (lengthFromCommand (commandCode b0))
        log := s.log ++ truncationEvent s.rx } := by
  have hstart : startFrame s b0 = (.collect (addressOf b0) [b0] (lengthFromCommand (commandCode b0)), []) := by
    simp [startFrame, State.owns, hown, hc]
  rw [receiveWord_start (modeOf_mkWord true b0), dataOf_mkWord, hstart, List.append_nil]

/-- A frame of known length, of which `buf` has come, is handed over once its other bytes and its checksum have (rule R126). -/
theorem foldl_receiveWord_known (xs : List Byte) {s : State} {a : Addr5} {buf : List Byte} {n : Nat} (hbuf : buf ≠ [])
    (hrx : s.rx = .collect a buf (some n)) (hn : n = buf.length + xs.length + 1) :
    ((xs ++ [sum8 (buf ++ xs)]).map (mkWord false)).foldl receiveWord s =
      ({ s with rx := .idle }).deliver a (buf ++ xs) := by
  induction xs generalizing s buf with
  | nil =>
    have hvalid : checksumValid (buf ++ [sum8 buf]) = true := by simp [checksumValid_snoc, hbuf]
    simp only [List.append_nil, List.nil_append, List.map_cons, List.map_nil, List.foldl_cons, List.foldl_nil]
    rw [receiveWord_known (modeOf_mkWord ..) hrx, dataOf_mkWord, collectFrame_valid (by simp [hn]) hvalid]
    simp [State.deliver, hn]
  | cons x xs ih =>
    have hword : receiveWord s (mkWord false x) = { s with rx := .collect a (buf ++ [x]) (some n) } := by
      rw [receiveWord_known (modeOf_mkWord ..) hrx, dataOf_mkWord, collectFrame_short (by simp [hn])]
    have hgrown : n = (buf ++ [x]).length + xs.length + 1 := by
      rw [hn, List.length_append, List.length_cons, List.length_singleton]
      omega
    have hrest := ih (s := receiveWord s (mkWord false x)) (by simp) (by rw [hword]) hgrown
    simpa [hword] using hrest

/-- A frame whose length its sub-command byte gives is handed over (rules R84, R126). -/
theorem foldl_receiveWord_sub (p : List Byte) {s : State} {a : Addr5} {b0 sub : Byte} (hrx : s.rx = .collect a [b0] none)
    (hlen : reqLen (commandCode b0) sub = some (p.length + 3)) :
    ((sub :: p ++ [sum8 (b0 :: sub :: p)]).map (mkWord false)).foldl receiveWord s =
      ({ s with rx := .idle }).deliver a (b0 :: sub :: p) := by
  have hword : receiveWord s (mkWord false sub) = { s with rx := .collect a [b0, sub] (some (p.length + 3)) } := by
    rw [receiveWord_sub (modeOf_mkWord ..) hrx, dataOf_mkWord, hlen]
    exact collectFrame_short (by simp)
  have hrest := foldl_receiveWord_known p (s := receiveWord s (mkWord false sub)) (buf := [b0, sub]) (by simp)
    (by rw [hword]) (by rw [List.length_cons, List.length_singleton]; omega)
  simpa [hword] using hrest

/-- Either byte 0 gives the length of a request's frame or its sub-command byte does (rules R84, R85). -/
theorem requestBytes_lengths (a : Addr5) {r : Instr} (h : r.WellFormed) :
    ∃ b0 rest c, requestBytes a r = b0 :: rest ∧ addressOf b0 = a ∧ commandOf (commandCode b0) = some c ∧
      (lengthFromCommand (commandCode b0) = some 2 ∧ rest = [] ∨
        lengthFromCommand (commandCode b0) = none ∧
          ∃ sub p, rest = sub :: p ∧ reqLen (commandCode b0) sub = some (p.length + 3)) := by
  have hlen := requestBytes_length a h
  rw [requestBytes_eq] at hlen ⊢
  refine ⟨_, _, r.kind.command, rfl, by simp, by simp, ?_⟩
  cases r
  case reset | poll => exact .inl ⟨by simp [Instr.kind, Kind.command, commandNumber, lengthFromCommand_eq], rfl⟩
  all_goals
    refine .inr ⟨by simp [Instr.kind, Kind.command, commandNumber, lengthFromCommand_eq], _, _, rfl, ?_⟩
    rw [commandCode_addressByte]
    exact congrArg some hlen.symm

/-- Settles O13: the address byte starts the frame whatever LINE was doing, and its other bytes and its checksum complete it. -/
theorem lineDeliversAnEncodedRequest : Obligations.LineDeliversAnEncodedRequest := by
  intro s a r hown hwf
  obtain ⟨b0, rest, c, hbytes, rfl, hc, hlengths⟩ := requestBytes_lengths a hwf
  have hstart := receiveWord_address hown hc
  have hrest : ((rest ++ [sum8 (b0 :: rest)]).map (mkWord false)).foldl receiveWord (receiveWord s (mkWord true b0)) =
      ({ receiveWord s (mkWord true b0) with rx := .idle }).deliver (addressOf b0) (b0 :: rest) := by
    obtain ⟨hl, rfl⟩ | ⟨hl, sub, p, rfl, hp⟩ := hlengths
    · exact foldl_receiveWord_known [] (n := 2) (buf := [b0]) (by simp) (by rw [hstart, hl]) rfl
    · exact foldl_receiveWord_sub p (by rw [hstart, hl]) hp
  rw [encode, hbytes, masterFrame_cons, List.foldl_cons, hrest, hstart]
  simp [State.deliver, overwriteEvent_eq]

/-! ### A response read back -/

/-- The master reads the bytes of a response from its words (rule R131). -/
theorem classify_frameP {xs : List Byte} (h : xs ≠ []) : classify (frameP xs) = (.data xs, []) := by
  obtain ⟨x, y, ws, hws⟩ : ∃ x y ws, frameP xs = x :: y :: ws := by
    rcases hxs : frameP xs with _ | ⟨x, _ | ⟨y, ws⟩⟩
    · simpa [hxs] using frameP_length xs
    · simpa [hxs, h] using frameP_length xs
    · exact ⟨x, y, ws, rfl⟩
  have hvalid : checksumValid ((frameP xs).map dataOf) = true := by simp [checksumValid_snoc, h]
  have hdata : (frameP xs).dropLast.map dataOf = xs := by simp [frameP_snoc, Function.comp_def]
  rw [hws] at hvalid hdata ⊢
  rw [classify_many, if_pos hvalid, hdata]

/-- Settles O17: the modes are those of the frame writer, and the last data byte is the sum of the others. -/
theorem responsesAreReadBack : Obligations.ResponsesAreReadBack := by
  intro xs h
  have hmodes : (frameP xs).map modeOf = List.replicate xs.length false ++ [true] := by
    simp [frameP_snoc, Function.comp_def]
  exact ⟨hmodes, frameP_data xs, classify_frameP h⟩

end Sys2Proof.Machine
end

section
/-! The records a PERIPHERAL answers with: the capability record of CONFIG_DATA and the identification record of REQUEST_ID
(rules R88, R89, R152, R193). -/

namespace Sys2Proof.Machine

/-- A session that is not IDLE after the command has no idle window to restart (rule R210). -/
theorem restartIdle_of_ne_idle {k : Kind} {r : CmdResult} (h : r.inst.st ≠ .idle) : restartIdle k r = r.inst := by
  simp [restartIdle, h]

/-- Before a session, entering DISABLED changes the state alone (rule R213). -/
theorem setState_disabled {i : Instance} (h : i.st = .inactive ∨ i.st = .disabled) :
    setState i .disabled = { i with st := .disabled } := by
  obtain h | h := h
  · simp [setState, h, enterState, leaveState]
  · simp [setState, ← h]

/-- CONFIG_DATA where it is accepted (rule R152). -/
theorem cmdConfigData_accepted {i : Instance} (cfg : Config) (h : i.st = .inactive ∨ i.st = .disabled) :
    cmdConfigData cfg i = accept { i with st := .disabled } (respConfig cfg) := by
  rw [← setState_disabled h]
  obtain h | h := h <;> simp [cmdConfigData, h]

/-- REQUEST_ID where it is accepted (rule R193). -/
theorem cmdRequestId_accepted {i : Instance} (cfg : Config) (h : i.st = .disabled ∨ i.st = .enabled) :
    cmdRequestId cfg i = accept i (respId cfg) := by
  simp [cmdRequestId, readerReady, h]

/-- Settles O32: the accepted branch answers the capability record from DISABLED, where no idle window runs. -/
theorem configDataAnswersTheCapabilityRecord : Obligations.ConfigDataAnswersTheCapabilityRecord := by
  intro fl cols rows info s a i hframe hst
  have hrule : ruleOf (.configData fl cols rows info) s.cfg i = accept { i with st := .disabled } (respConfig s.cfg) :=
    cmdConfigData_accepted s.cfg hst
  rw [exec_answered _ hframe, hrule, restartIdle_of_ne_idle (by simp [accept])]
  rfl

/-- Settles O44: the accepted branch answers the identification record and keeps the session, which is not IDLE. -/
theorem requestIdAnswersTheIdentificationRecord : Obligations.RequestIdAnswersTheIdentificationRecord := by
  intro mfr serial model sw s a i hframe hst
  have hrule : ruleOf (.requestId mfr serial model sw) s.cfg i = accept i (respId s.cfg) :=
    cmdRequestId_accepted s.cfg hst
  have hidle : i.st ≠ .idle := by rcases hst with h | h <;> simp [h]
  rw [exec_answered _ hframe, hrule, restartIdle_of_ne_idle hidle]
  simp [accept, respId, idRecord]

end Sys2Proof.Machine
end

section
/-! BitLink below the word level (rules R101 to R108): each level of a word lasts two half bits and the receiver samples the second,
and a UART's parity bit and parity-error indication carry the mode flag in both directions. -/

namespace Sys2Proof.Machine

/-! ### The bit-banged link -/

/-- The second half of the bit time number `k`, where the receiver samples it (rules R103, R104). -/
theorem sampleAt_flatMap_drive (levels rest : List Bool) (k : Nat) (hk : k < levels.length) :
    sampleAt (levels.flatMap drive ++ rest) (2 * k + 1) = levels[k]? := by
  unfold sampleAt
  induction levels generalizing k with
  | nil => simp at hk
  | cons level levels ih =>
    cases k with
    | zero => simp [drive]
    | succ k => simpa [drive, Nat.mul_add] using ih k (by simpa using hk)

/-- After the start bit come the data bits, least significant first: bit time `i + 1` is that of the bit `i` (rule R101). -/
theorem wordLevels_data (w : Word9) {i : Nat} (hi : i < 8) : (wordLevels w)[i + 1]? = some ((dataOf w).getLsbD i) := by
  interval_cases i <;> rfl

/-- The bit `i` of the byte is the one sampled `i`-th (rule R104). -/
theorem getLsbD_byteOfBits (b : Nat → Bool) {i : Nat} (hi : i < 8) : (byteOfBits b).getLsbD i = b i := by
  simp only [byteOfBits, BitVec.getLsbD_append, BitVec.getLsbD_ofBool]
  interval_cases i <;> simp

/-- A byte is assembled from its own bits, least significant first (rules R101, R104). -/
theorem byteOfBits_eq {b : Nat → Bool} {d : Byte} (h : ∀ i < 8, b i = d.getLsbD i) : byteOfBits b = d :=
  BitVec.eq_of_getLsbD_eq fun i hi => (getLsbD_byteOfBits b hi).trans (h i hi)

/-- The line at rest, however long, has no falling edge before the start bit (rule R104). -/
theorem waitFall_idle (n : Nat) (line : List Bool) :
    waitFall true (List.replicate n true ++ false :: line) = some (false :: line) := by
  induction n with
  | zero => simp [waitFall]
  | succ n ih => simpa [List.replicate_succ, waitFall] using ih

/-- A transmitted word begins with the falling edge of its start bit (rule R101). -/
theorem waitFall_sendBitbang (n : Nat) (w : Word9) (rest : List Bool) :
    waitFall true (List.replicate n true ++ (sendBitbang w ++ rest)) = some (sendBitbang w ++ rest) :=
  waitFall_idle n _

/-- The sample of the data bit `i`, at `(1.5 + i) T` (rule R104). -/
theorem sampleAt_sendBitbang_data (w : Word9) (rest : List Bool) {i : Nat} (hi : i < 8) :
    sampleAt (sendBitbang w ++ rest) (3 + 2 * i) = some ((dataOf w).getLsbD i) := by
  have hlen : i + 1 < (wordLevels w).length := by simp [wordLevels, bitsLsbFirst]; omega
  rw [show 3 + 2 * i = 2 * (i + 1) + 1 by omega, sendBitbang, sampleAt_flatMap_drive _ _ _ hlen, wordLevels_data w hi]

/-- The sample of the ninth bit, at `9.5 T` (rule R104). -/
theorem sampleAt_sendBitbang_mode (w : Word9) (rest : List Bool) :
    sampleAt (sendBitbang w ++ rest) 19 = some (modeOf w) :=
  sampleAt_flatMap_drive (wordLevels w) rest 9 (by simp [wordLevels, bitsLsbFirst])

/-- From the ninth bit's sample on: the second half of the mode bit, the stop bit, what follows (rule R101). -/
theorem sendBitbang_drop (w : Word9) (rest : List Bool) :
    (sendBitbang w ++ rest).drop 19 = modeOf w :: true :: true :: rest := rfl

/-- The samples of a transmitted word are its byte and its mode flag. -/
theorem sampleWord_sendBitbang (w : Word9) (n : Nat) (rest : List Bool) :
    sampleWord true (List.replicate n true ++ (sendBitbang w ++ rest)) =
      some ⟨dataOf w, modeOf w, modeOf w :: true :: true :: rest⟩ := by
  have hdata : (byteOfBits fun i => (sampleAt (sendBitbang w ++ rest) (3 + 2 * i)).getD true) = dataOf w :=
    byteOfBits_eq fun i hi => by rw [sampleAt_sendBitbang_data w rest hi, Option.getD_some]
  simp only [sampleWord, waitFall_sendBitbang, sampleAt_sendBitbang_mode, hdata, sendBitbang_drop]

/-- Settles O18: the receiver joins the byte and the mode flag it sampled. -/
theorem bitbangReceivesWhatWasSent : Obligations.BitbangReceivesWhatWasSent := by
  intro w n rest
  rw [receiveBitbang, sampleWord_sendBitbang, Option.map_some, mkWord_eta]

/-! ### The parity-assisted UART -/

/-- Either kind of UART selects a setting whose parity bit is the mode flag (rule R106). -/
theorem parityBit_selected (markSpace : Bool) (w : Word9) :
    parityBit (if markSpace then sendParityMarkSpace w else sendParityEvenOdd w) (dataOf w) = modeOf w := by
  cases markSpace with
  | true => cases hm : modeOf w <;> simp [sendParityMarkSpace, hm, parityBit]
  | false =>
    by_cases h : modeOf w = oddPopcount (dataOf w)
    · simp [sendParityEvenOdd, h, parityBit]
    · simpa [sendParityEvenOdd, h, parityBit] using (Bool.eq_not_of_ne h).symm

/-- A UART whose parity bit is the mode flag puts the word's own levels on the line (rules R101, R106). -/
theorem uartLevels_eq_wordLevels {p : UartParity} {w : Word9} (h : parityBit p (dataOf w) = modeOf w) :
    uartLevels p (dataOf w) = wordLevels w := by
  rw [uartLevels, wordLevels, h]

theorem sendWord9_parityUart (markSpace : Bool) :
    sendWord9 .parityUart markSpace = sendWord9 .bitbang markSpace := by
  funext w
  simp only [sendWord9, sendBitbang, uartLevels_eq_wordLevels (parityBit_selected markSpace w)]

/-- The receive rule of each setting: the expected parity bit, corrected by the error indication (rule R107). -/
theorem receiveUart_eq (p : UartParity) (d : Byte) (e : Bool) : receiveUart p d e = mkWord (Bool.xor (parityBit p d) e) d := by
  cases p <;> simp [receiveUart, parityBit]

/-- The ninth bit on the line is recovered, whatever it is (rule R107). -/
theorem receiveUart_uartError (p : UartParity) (d : Byte) (b : Bool) : receiveUart p d (uartError p d b) = mkWord b d := by
  have hcorrect : Bool.xor (parityBit p d) (uartError p d b) = b := by
    cases b <;> cases h : parityBit p d <;> simp [uartError, h]
  rw [receiveUart_eq, hcorrect]

theorem receiveParityUart_eq (p : UartParity) (before : Bool) (line : List Bool) :
    receiveParityUart p before line = receiveBitbang before line := by
  simp only [receiveParityUart, receiveBitbang, receiveUart_uartError]

/-- Settles O19: equal levels give equal waveforms, and both receivers read the ninth bit of the same samples. -/
theorem linkFormsAgree : Obligations.LinkFormsAgree := by
  refine ⟨fun ws markSpace => by rw [sendWord9_parityUart], receiveParityUart_eq, fun w p => ?_⟩
  rw [parityError, receiveUart_uartError, mkWord_eta]

end Sys2Proof.Machine
end

section
/-! The checksum under change (rules R132, R133): the sum of a list moves with each of its bytes, so one changed byte is always seen
and two changes that cancel never are. -/

namespace Sys2Proof

/-- Replacing one byte keeps the sum exactly where it replaces the byte by itself. -/
theorem sum8_set_eq_iff {xs : List Byte} {k : Nat} (hk : k < xs.length) (v : Byte) :
    sum8 (xs.set k v) = sum8 xs ↔ xs[k]? = some v := by
  induction xs generalizing k with
  | nil => simp at hk
  | cons x xs ih =>
    cases k with
    | zero => simp [eq_comm]
    | succ k => simpa using ih (by simpa using hk)

/-- A change of one byte and the opposite change of a later one keep the sum. -/
theorem sum8_compensated (xs ys zs : List Byte) (x y d : Byte) :
    sum8 (xs ++ (x + d) :: ys ++ (y - d) :: zs) = sum8 (xs ++ x :: ys ++ y :: zs) := by
  simp only [sum8_append, sum8_cons]
  ring

namespace Machine

/-- Settles O15: a changed byte before the checksum changes the sum, and a changed checksum byte no longer is the sum. -/
theorem oneChangedByteFailsTheChecksum : Obligations.OneChangedByteFailsTheChecksum := by
  intro f k v hvalid hk hv
  obtain ⟨xs, -, rfl⟩ := (checksumValid_iff f).1 hvalid
  by_cases hkxs : k < xs.length
  · rw [List.getElem?_append_left hkxs] at hv
    have hsum : sum8 (xs.set k v) ≠ sum8 xs := mt (sum8_set_eq_iff hkxs v).1 hv
    rw [List.set_append_left _ _ hkxs, checksumValid_snoc]
    simp [hsum.symm]
  · have hlen : k < xs.length + 1 := by simpa using hk
    obtain rfl : k = xs.length := by omega
    have hlast : sum8 xs ≠ v := by simpa using hv
    simp [checksumValid_snoc, hlast.symm]

/-- Settles O16: the two changes keep the sum of the bytes before the checksum. -/
theorem compensatingChangesPassTheChecksum : Obligations.CompensatingChangesPassTheChecksum := by
  intro xs ys zs x y d c hvalid
  rw [checksumValid_snoc, decide_eq_true_eq] at hvalid ⊢
  exact ⟨by simp, hvalid.2.trans (sum8_compensated xs ys zs x y d).symm⟩

end Machine

end Sys2Proof
end

section
/-! LINE step by step: the word that starts a frame, the words that follow it, and the transmit step (rules R126, R127, R129,
R287). -/

namespace Sys2Proof.Machine

/-! ### The word that starts a frame -/

/-- A mode-flagged word for an address not owned (rules R122, R126). -/
theorem receiveWord_foreign {s : State} {d : Byte} (hown : addressOf d ∉ s.cfg.ownAddrs) :
    receiveWord s (mkWord true d) =
      { s with rx := .skip, log := s.log ++ (truncationEvent s.rx ++ [.e2 (addressOf d)]) } := by
  have hstart : startFrame s d = (.skip, [.e2 (addressOf d)]) := by simp [startFrame, State.owns, hown]
  rw [receiveWord_start (modeOf_mkWord true d), dataOf_mkWord, hstart]

/-- A mode-flagged word for an owned address with an unassigned command code (rules R90, R126). -/
theorem receiveWord_unassigned {s : State} {d : Byte} (hown : addressOf d ∈ s.cfg.ownAddrs)
    (hc : commandOf (commandCode d) = none) :
    receiveWord s (mkWord true d) =
      { s with rx := .skip, log := s.log ++ (truncationEvent s.rx ++ [.e6 d none]) } := by
  have hstart : startFrame s d = (.skip, [.e6 d none]) := by simp [startFrame, State.owns, hown, hc]
  rw [receiveWord_start (modeOf_mkWord true d), dataOf_mkWord, hstart]

/-- Settles O20: the address, the command code and the length known from it decide, in this order. -/
theorem modeFlaggedWordStartsAFrame : Obligations.ModeFlaggedWordStartsAFrame := by
  intro s d rest h truncated c
  have htruncated : truncationEvent s.rx = truncated := by
    simp only [truncated]
    cases s.rx <;> rfl
  rw [step_rxWord_peripheral h, ← htruncated]
  by_cases hown : addressOf d ∈ s.cfg.ownAddrs
  · rw [if_neg (not_not_intro hown)]
    by_cases hc : c = 5 ∨ c = 6
    · rw [if_pos hc]
      exact congrArg Host.Outcome.next (receiveWord_unassigned hown ((commandOf_eq_none c).2 hc))
    · obtain ⟨cmd, hcmd⟩ := Option.ne_none_iff_exists'.1 (mt (commandOf_eq_none _).1 hc)
      rw [if_neg hc, receiveWord_address (s := { s with agenda := rest }) hown hcmd, lengthFromCommand_eq]
      split_ifs <;> rfl
  · rw [if_pos hown]
    exact congrArg Host.Outcome.next (receiveWord_foreign hown)

/-! ### The words that follow it -/

/-- What a frame of known length becomes: it goes on, or it is complete and the checksum decides (rules R126, R127). -/
theorem collectFrame_eq (s : State) (a : Addr5) (buf : List Byte) (need : Nat) :
    s.collectFrame a buf need =
      if buf.length < need then { s with rx := .collect a buf (some need) }
      else if checksumValid buf then
        { s with
          rx := .idle
          rxSlot := some (a, buf.take (need - 1))
          log := s.log ++ if s.rxSlot.isSome then [.e9 .rxSlot] else [] }
      else { s with rx := .idle, log := s.log ++ [.e1 .checksum] } := by
  rw [← overwriteEvent_eq]
  rfl

/-- A mode-clear word extends a frame whose length is known or given by this very word (rules R84, R126). -/
theorem receiveWord_extends_frame {s : State} {w : Word9} {a : Addr5} {buf : List Byte} {need : Option Nat} {n : Nat}
    (hw : modeOf w = false) (hrx : s.rx = .collect a buf need)
    (hn : need = some n ∨ need = none ∧ ∃ b0, buf = [b0] ∧ reqLen (commandCode b0) (dataOf w) = some n) :
    receiveWord s w = s.collectFrame a (buf ++ [dataOf w]) n := by
  obtain rfl | ⟨rfl, b0, rfl, hlen⟩ := hn
  · exact receiveWord_known hw hrx
  · rw [receiveWord_sub hw hrx, hlen]
    rfl

/-- Settles O21: LINE's receive step between frames, at an unassigned sub-command, and inside a frame. -/
theorem modeClearWordExtendsTheFrame : Obligations.ModeClearWordExtendsTheFrame := by
  intro s d rest h
  have hmode : modeOf (mkWord false d) = false := modeOf_mkWord ..
  rw [step_rxWord_peripheral h]
  refine ⟨fun hrx => ?between, fun a b0 hrx hsub => ?unassigned, fun a buf need n hrx hn => ?inside⟩
  case between => exact congrArg Host.Outcome.next (receiveWord_between hmode ((betweenFrames_iff s.rx).2 hrx))
  case unassigned =>
    rw [receiveWord_sub (s := { s with agenda := rest }) hmode hrx, dataOf_mkWord, hsub]
  case inside =>
    rw [← dataOf_mkWord false d] at hn
    rw [receiveWord_extends_frame (s := { s with agenda := rest }) hmode hrx hn, dataOf_mkWord, collectFrame_eq,
      List.length_append, List.length_singleton]

/-! ### The transmit step -/

/-- A move whose guard does not hold (notes/assumptions/10.md). -/
theorem takeMove_disabled {s : State} {mv : Move} (he : enabled s mv ≠ true) : takeMove s mv = .next s :=
  if_neg he

/-- The guard of the transmit step of a PERIPHERAL (rules R129, R230). -/
theorem enabled_transmit_iff {s : State} (hr : s.cfg.role = .peripheral) :
    enabled s .transmit = true ↔ s.txSlot.isSome = true ∧ (s.rx = .idle ∨ s.rx = .skip) := by
  rw [enabled, hr]
  exact peripheralEnabled_transmit_iff s

/-- Settles O23: the guard of the transmit step decides between the two clauses. -/
theorem transmitSendsTheWholeResponse : Obligations.TransmitSendsTheWholeResponse := by
  intro s rest h
  have ⟨_, hrole, _⟩ := h
  have hguard := enabled_transmit_iff (s := { s with agenda := rest }) hrole
  rw [step_of_offered h]
  refine ⟨fun ws hws hrx => ?sent, fun hno => ?nothing⟩
  case sent =>
    have henabled := hguard.2 ⟨Option.isSome_of_eq_some hws, hrx⟩
    have htransmit := transmit_some (s := { s with agenda := rest }) hws
    rw [takeMove_enabled henabled (by decide), performMove, htransmit]
  case nothing =>
    refine takeMove_disabled fun henabled => ?_
    obtain ⟨hslot, hrx⟩ := hguard.1 henabled
    obtain hnone | ⟨a, buf, need, hcollect⟩ := hno
    · simp [hnone] at hslot
    · simp [hcollect] at hrx

end Sys2Proof.Machine
end

section
/-! Words received by a MASTER: the step is MSEQ's response receive step, and an overlong response is a miss (rules R130, R243,
R253, R255). -/

namespace Sys2Proof.Machine

/-- The step that receives a word at a MASTER, in every phase, is MSEQ's response receive step (rules R112, R130). -/
theorem step_rxWord_master {s : State} {w : Word9} {rest : List Move} (h : Offered s .master (.rxWord w) rest) :
    step s = .next (receiveResponse { s with agenda := rest } w) := by
  have ⟨_, hrole, _⟩ := h
  have henabled : enabled { s with agenda := rest } (.rxWord w) = true := by simp [enabled, hrole, masterEnabled]
  calc step s = takeMove { s with agenda := rest } (.rxWord w) := step_of_offered h
    _ = .next (performMove { s with agenda := rest } (.rxWord w)) := takeMove_enabled henabled (by simp)
    _ = .next (receiveResponse { s with agenda := rest } w) := by simp [performMove, receive, hrole]

/-- A transaction completed without a valid response: the miss on the mirror, and the end of the turn (rules R243, R250, R253,
R255). -/
theorem complete_missed {s : State} {a : Addr5} {m : MInstance} (req : Instr) {c : ResponseClass}
    (hm : s.mirrorAt a = some m) (hc : c = .nak ∨ c = .invalid ∨ c = .noResponse) :
    complete s a req c =
      { s with
        mirror := updateAt a (missed s.cfg a req m).1 s.mirror
        log := s.log ++ (missed s.cfg a req m).2
        turn := (s.turn + 1) % s.cfg.addrs.length
        phase := .mIdle } := by
  have hack : masterAck c = [] := by rcases hc with rfl | rfl | rfl <;> rfl
  rw [complete_eq req c hm, completeMirror_miss hc, missResponse_eq_missed, hack, List.append_nil]

/-- Settles O50: the response receive step in M_IDLE, with room in the buffer, and without, where E1 follows the miss. -/
theorem masterCollectsAResponse : Obligations.MasterCollectsAResponse := by
  intro s w rest h
  rw [step_rxWord_master h]
  refine ⟨fun hp => ?ignored, fun a r buf hp hw => ⟨fun hroom => ?appended, fun m hfull hm => ?overlong⟩⟩
  case ignored => exact congrArg Host.Outcome.next (receiveResponse_idle hp)
  case appended => exact congrArg Host.Outcome.next (receiveResponse_more hp hw hroom)
  case overlong =>
    have hmiss := complete_missed (s := { s with agenda := rest }) r hm (c := .invalid) (.inr (.inl rfl))
    rw [receiveResponse_overlong (s := { s with agenda := rest }) hp hw hfull, hmiss]
    simp only [State.raise, List.append_assoc]

end Sys2Proof.Machine
end

section
/-! The commands RESET, SETUP/MAX_MIN_PRICES, VEND/CASH_SALE and POLL on a session: RESET in every state (rules R150, R151), the
commands that are only acknowledged (rules R153, R175), and the drain of each pending action (rules R160 to R168). -/

namespace Sys2Proof.Machine

/-! ### Commands acknowledged or accepted in every state -/

/-- The event of `notify` is the one of a notification the host has not read (rule R226). -/
theorem notifyEvent_eq (i : Instance) : notifyEvent i = lostNotification i := overwriteEvent_eq i.outSlot .outSlot

/-- RESET of a vend whose approval was transmitted (rule R151). -/
theorem cmdReset_sold {i : Instance} (cfg : Config) (h : i.st = .vend ∧ i.approvalSent = true) :
    cmdReset cfg i =
      { inst := notify { clearSession i with pend := { nothingPending with rstAck := true } }
          (.saleCompleted i.ctx.price i.ctx.item)
        resp := ackP
        accepted := true
        errs := lostNotification i } := by
  rw [← notifyEvent_eq]; exact if_pos h

/-- RESET of every other session (rule R150). -/
theorem cmdReset_unsold {i : Instance} (cfg : Config) (h : ¬ (i.st = .vend ∧ i.approvalSent = true)) :
    cmdReset cfg i = accept { clearSession i with pend := { nothingPending with rstAck := true } } ackP :=
  if_neg h

/-- MAX_MIN_PRICES where it is accepted (rule R153). -/
theorem cmdMaxMinPrices_accepted {i : Instance} (cfg : Config) (h : i.st = .disabled ∨ i.st = .enabled) :
    cmdMaxMinPrices cfg i = accept i ackP := by
  obtain h | h := h <;> simp [cmdMaxMinPrices, h]

/-- CASH_SALE where it is accepted (rule R175). -/
theorem cmdCashSale_accepted {i : Instance} (cfg : Config) (h : i.st ≠ .inactive) :
    cmdCashSale cfg i = accept i ackP :=
  if_neg h

/-- Settles O31: RESET with and without a sale to notify; no idle window runs in INACTIVE. -/
theorem resetClearsTheSession : Obligations.ResetClearsTheSession := by
  intro s a i hframe sale
  have hrule : ruleOf .reset s.cfg i = cmdReset s.cfg i := rfl
  rw [exec_answered .reset hframe, hrule]
  by_cases hsale : sale
  · rw [cmdReset_sold s.cfg hsale, restartIdle_of_ne_idle (by simp [notify, clearSession]), if_pos hsale, if_pos hsale]
    rfl
  · rw [cmdReset_unsold s.cfg hsale, restartIdle_of_ne_idle (by simp [accept, clearSession]), if_neg hsale, if_neg hsale]
    rfl

/-- Settles O33: both are acknowledged; only CASH_SALE is accepted in IDLE, where the window can restart. -/
theorem pricesAndCashSalesAreAcknowledged : Obligations.PricesAndCashSalesAreAcknowledged := by
  intro s a i hframe
  refine ⟨fun mx mn hst => ?prices, fun p n hst => ?cashSale⟩
  case prices =>
    have hrule : ruleOf (.maxMinPrices mx mn) s.cfg i = accept i ackP := cmdMaxMinPrices_accepted s.cfg hst
    have hidle : i.st ≠ .idle := by rcases hst with h | h <;> simp [h]
    rw [exec_answered _ hframe, hrule, restartIdle_of_ne_idle hidle]
    rfl
  case cashSale =>
    have hrule : ruleOf (.cashSale p n) s.cfg i = accept i ackP := cmdCashSale_accepted s.cfg hst
    rw [exec_answered _ hframe, hrule, restartIdle_accepted (by simp [Instr.kind]) rfl]
    rfl

/-! ### POLL -/

/-- POLL answers what the drain gives; it restarts no idle window (rules R154, R210). -/
theorem exec_poll {s : State} {a : Addr5} {i : Instance} {r : CmdResult} (h : HasFrame s a i)
    (hdrain : drain s.cfg i = r) : exec .poll s = .next (answered s a r.inst r.resp r.errs) := by
  subst hdrain
  have hkind : Instr.poll.kind = .poll := rfl
  rw [exec_answered .poll h, hkind, restartIdle_poll]
  rfl

/-! The drain with the flags of higher priority clear (rule R160). -/

section
variable {i : Instance} {cfg : Config}

theorem drain_oos (h : i.pend.oos = true) : drain cfg i = drainOos cfg i := if_pos h

theorem drain_nothing (h : i.pend = nothingPending) : drain cfg i = accept i ackP := by
  simp [drain, h, nothingPending]

variable (hoos : i.pend.oos = false)
include hoos

theorem drain_rstAck (h : i.pend.rstAck = true) : drain cfg i = drainRstAck i := by
  simp [drain, hoos, h]

variable (hrst : i.pend.rstAck = false)
include hrst

theorem drain_vApp (h : i.pend.vApp = true) : drain cfg i = drainVApp i := by
  simp [drain, hoos, hrst, h]

variable (hApp : i.pend.vApp = false)
include hApp

theorem drain_vDen (h : i.pend.vDen = true) : drain cfg i = drainVDen i := by
  simp [drain, hoos, hrst, hApp, h]

variable (hDen : i.pend.vDen = false)
include hDen

theorem drain_sEnd (h : i.pend.sEnd = true) : drain cfg i = drainSEnd i := by
  simp [drain, hoos, hrst, hApp, hDen, h]

variable (hEnd : i.pend.sEnd = false)
include hEnd

theorem drain_sBeg (h : i.pend.sBeg = true) : drain cfg i = drainSBeg i := by
  simp [drain, hoos, hrst, hApp, hDen, hEnd, h]

theorem drain_sCan (hBeg : i.pend.sBeg = false) (h : i.pend.sCan = true) : drain cfg i = drainSCan i := by
  simp [drain, hoos, hrst, hApp, hDen, hEnd, hBeg, h]

end

/-- Settles O34: the drain of `oos` with and without `OOS_TO_INACTIVE`, of `rstAck`, and of nothing. -/
theorem pollReportsSequenceAndReset : Obligations.PollReportsSequenceAndReset := by
  intro s a i hframe
  refine ⟨fun hoos hstay => ?kept, fun hoos hclear => ?cleared, fun hoos hrst => ?rstAck, fun hnone => ?nothing⟩
  case kept => exact exec_poll hframe ((drain_oos hoos).trans (if_neg (by simp [hstay])))
  case cleared => exact exec_poll hframe ((drain_oos hoos).trans (if_pos hclear))
  case rstAck => exact exec_poll hframe (drain_rstAck hoos hrst)
  case nothing => exact exec_poll hframe (drain_nothing hnone)

/-! The changes of state a drain makes (rule R213). -/

/-- A vend that ends withdraws its decision and starts the idle window. -/
theorem setState_vend_idle {i : Instance} (h : i.st = .vend) :
    setState i .idle =
      { i with
        st := .idle
        pend := { i.pend with vApp := false, vDen := false }
        approvalSent := false, vendArmed := false, idleArmed := true } := by
  simp [setState, h, leaveState, enterState]

/-- A session that begins starts the idle window. -/
theorem setState_enabled_idle {i : Instance} (h : i.st = .enabled) :
    setState i .idle = { i with st := .idle, pend := { i.pend with sBeg := false }, idleArmed := true } := by
  simp [setState, h, leaveState, enterState]

/-- A session that ends withdraws its events and stops the idle window. -/
theorem setState_idle_enabled {i : Instance} (h : i.st = .idle) :
    setState i .enabled =
      { i with st := .enabled, pend := { i.pend with sCan := false, sEnd := false }, idleArmed := false } := by
  simp [setState, h, leaveState, enterState]

/-! The drains of the vend's denial, the session's end and its begin, on a session that meets its invariants: what else the change
withdraws was clear. -/

section
variable {i : Instance} (h : SessionInv i)
include h

/-- An approval and a denial are never both pending (rule R41 (a)). -/
theorem SessionInv.vApp_false_of_vDen (hDen : i.pend.vDen = true) : i.pend.vApp = false := by
  simpa [hDen] using h.rule41.notBoth

/-- The session's begin is pending in ENABLED only (rule R41 (c)). -/
theorem SessionInv.sBeg_false_of_idle (hidle : i.st = .idle) : i.pend.sBeg = false :=
  Bool.eq_false_iff.2 fun hBeg => by simpa [hidle] using h.rule41.sBegInEnabled hBeg

/-- The session's end is pending in IDLE only (rule R41 (e)). -/
theorem SessionInv.sEnd_false_of_enabled (henabled : i.st = .enabled) : i.pend.sEnd = false :=
  Bool.eq_false_iff.2 fun hEnd => by simpa [henabled] using h.rule41.sEndInIdle hEnd

/-- A denied vend is neither approved nor was its approval sent (rule R164). -/
theorem SessionInv.drainVDen_eq (hDen : i.pend.vDen = true) :
    Machine.drainVDen i =
      accept { i with st := .idle, pend := { i.pend with vDen := false }, vendArmed := false, idleArmed := true }
        respVendDenied := by
  have hvend : i.st = .vend := h.rule41.decidedInVend (.inr hDen)
  have hSent : i.approvalSent = false := Bool.eq_false_iff.2 fun hsent => by
    obtain ⟨-, hundenied, -⟩ := h.rule232.sentDecided hsent
    simp [hDen] at hundenied
  simp [Machine.drainVDen, setState_vend_idle, hvend, h.vApp_false_of_vDen hDen, hSent]

/-- The session's end leads from IDLE to ENABLED with the context cleared and the host notified (rule R165). -/
theorem SessionInv.drainSEnd_eq (hEnd : i.pend.sEnd = true) :
    Machine.drainSEnd i =
      { inst :=
          { i with
            st := .enabled
            pend := { i.pend with sEnd := false, sCan := false }
            ctx := clearedContext
            idleArmed := false
            outSlot := some .sessionEnded }
        resp := respEndSession
        accepted := true
        errs := lostNotification i } := by
  have hidle : i.st = .idle := h.rule41.sEndInIdle hEnd
  simp [Machine.drainSEnd, setState_idle_enabled, hidle, notify, notifyEvent_eq]

/-- The session's begin leads from ENABLED to IDLE (rule R166). -/
theorem SessionInv.drainSBeg_eq (hBeg : i.pend.sBeg = true) :
    Machine.drainSBeg i =
      accept { i with st := .idle, pend := { i.pend with sBeg := false }, idleArmed := true }
        (respBeginSession i.ctx.funds) := by
  have henabled : i.st = .enabled := h.rule41.sBegInEnabled hBeg
  simp [Machine.drainSBeg, setState_enabled_idle, henabled]

end

/-- Settles O35: an approval and a denial are never both pending. -/
theorem pollReportsTheVendDecision : Obligations.PollReportsTheVendDecision := by
  intro s a i hframe hinv hoos hrst
  refine ⟨fun hApp => ?approval, fun hDen => ?denial⟩
  case approval => exact exec_poll hframe (drain_vApp hoos hrst hApp)
  case denial =>
    have hApp : i.pend.vApp = false := hinv.vApp_false_of_vDen hDen
    exact exec_poll hframe ((drain_vDen hoos hrst hApp hDen).trans (hinv.drainVDen_eq hDen))

/-- Settles O36: the begin is pending in ENABLED, the end and the cancel in IDLE, so the end and the begin, or the begin and the
cancel, are never both pending. -/
theorem pollReportsSessionEvents : Obligations.PollReportsSessionEvents := by
  intro s a i hframe hinv hoos hrst hApp hDen
  refine ⟨fun hEnd => ?sessionEnd, fun hBeg => ?sessionBegin, fun hEnd hCan => ?sessionCancel⟩
  case sessionEnd => exact exec_poll hframe ((drain_sEnd hoos hrst hApp hDen hEnd).trans (hinv.drainSEnd_eq hEnd))
  case sessionBegin =>
    have hEnd : i.pend.sEnd = false := hinv.sEnd_false_of_enabled (hinv.rule41.sBegInEnabled hBeg)
    exact exec_poll hframe ((drain_sBeg hoos hrst hApp hDen hEnd hBeg).trans (hinv.drainSBeg_eq hBeg))
  case sessionCancel =>
    have hBeg : i.pend.sBeg = false := hinv.sBeg_false_of_idle (hinv.rule41.sCanInIdle hCan)
    exact exec_poll hframe (drain_sCan hoos hrst hApp hDen hEnd hBeg hCan)

end Sys2Proof.Machine
end

section
/-! The VEND commands on a session where they are accepted: a vend opens, is cancelled, ends with its outcome, the session is
completed, and a command that is repeated is acknowledged (rules R170 to R174). -/

namespace Sys2Proof.Machine

/-! ### An accepted command and the idle window -/

/-- An accepted command other than POLL answers what its rule gives, with the idle window restarted (rules R210, R211). -/
theorem exec_accepted {s : State} {a : Addr5} {i j : Instance} {resp : List Word9} {errs : List ErrorEvent} (r : Instr)
    (hframe : HasFrame s a i) (hkind : r.kind ≠ .poll) (hrule : ruleOf r s.cfg i = ⟨j, resp, true, errs⟩) :
    exec r s = .next (answered s a (windowRestarted j) resp errs) := by
  rw [exec_answered r hframe, hrule, restartIdle_accepted hkind rfl]

/-- An accepted command without effect on the session is acknowledged (rules R75, R210). -/
theorem exec_acknowledged {s : State} {a : Addr5} {i : Instance} (r : Instr) (hframe : HasFrame s a i)
    (hkind : r.kind ≠ .poll) (hrule : ruleOf r s.cfg i = accept i ackP) :
    exec r s = .next (answered s a (windowRestarted i) [0x100] []) :=
  exec_accepted r hframe hkind hrule

/-- The idle window runs in IDLE only (rule R210). -/
theorem windowRestarted_of_ne_idle {i : Instance} (h : i.st ≠ .idle) : windowRestarted i = i :=
  if_neg fun ⟨hidle, _⟩ => h hidle

/-- No idle window runs where the session's end is pending (rule R210). -/
theorem windowRestarted_of_sEnd {i : Instance} (h : i.pend.sEnd = true) : windowRestarted i = i :=
  if_neg fun ⟨_, hEnd, _⟩ => by simp [h] at hEnd

/-- A window that was just started is not changed by its restart (rules R210, R213). -/
theorem windowRestarted_of_armed {i : Instance} (h : i.idleArmed = true) : windowRestarted i = i := by
  unfold windowRestarted
  split
  · rw [← h]
  · rfl

/-! ### VEND_REQUEST -/

/-- A vend that opens withdraws the session's events, stops the idle window and starts its own (rule R213). -/
theorem setState_idle_vend {i : Instance} (h : i.st = .idle) :
    setState i .vend =
      { i with
        st := .vend
        pend := { i.pend with sCan := false, sEnd := false }
        idleArmed := false, vendArmed := true } := by
  simp [setState, h, leaveState, enterState]

/-- The vend VEND_REQUEST opens: undecided with its window running, or decided at once by the unsigned comparison of the price with
the funds (rules R170, R176). -/
theorem beginVend_idle {i : Instance} (cfg : Config) (price item : U16) (hidle : i.st = .idle)
    (hEnd : i.pend.sEnd = false) :
    beginVend cfg i price item =
      { i with
        st := .vend
        ctx := { funds := i.ctx.funds, price := price, item := item }
        pend := { i.pend with
          sCan := false
          vApp := if cfg.autoApprove = true ∧ price.toNat ≤ i.ctx.funds.toNat then true else i.pend.vApp
          vDen := if cfg.autoApprove = true ∧ ¬ price.toNat ≤ i.ctx.funds.toNat then true else i.pend.vDen }
        idleArmed := false
        vendArmed := !cfg.autoApprove } := by
  have hopen := setState_idle_vend (i := { i with ctx := { i.ctx with price := price, item := item } }) hidle
  simp only [beginVend, hopen, hEnd, BitVec.le_def]
  by_cases hauto : cfg.autoApprove = true
  · by_cases hfunds : price.toNat ≤ i.ctx.funds.toNat
    · simp [hauto, hfunds]
    · simp [hauto, hfunds]
  · simp [hauto]

/-- VEND_REQUEST in IDLE with no session end pending (rule R170). -/
theorem cmdVendRequest_idle {i : Instance} (cfg : Config) (price item : U16) (hidle : i.st = .idle)
    (hEnd : i.pend.sEnd = false) :
    cmdVendRequest price item cfg i = accept (beginVend cfg i price item) ackP :=
  if_pos ⟨hidle, hEnd⟩

/-- VEND_REQUEST repeated in the vend it opened (rule R170). -/
theorem cmdVendRequest_repeated {i : Instance} (cfg : Config) (hvend : i.st = .vend) :
    cmdVendRequest i.ctx.price i.ctx.item cfg i = accept i ackP := by
  simp [cmdVendRequest, hvend]

/-- Settles O37: the accepted branch in IDLE, in the form of `beginVend_idle`; VEND has no idle window to restart. -/
theorem vendRequestOpensAVend : Obligations.VendRequestOpensAVend := by
  intro price item s a i hframe hidle hEnd auto approve
  have hrule : ruleOf (.vendRequest price item) s.cfg i = accept (beginVend s.cfg i price item) ackP :=
    cmdVendRequest_idle s.cfg price item hidle hEnd
  rw [beginVend_idle s.cfg price item hidle hEnd] at hrule
  rw [exec_accepted (.vendRequest price item) hframe nofun hrule, windowRestarted_of_ne_idle (by simp)]
  rfl

/-! ### VEND_CANCEL -/

/-- VEND_CANCEL before the approval is transmitted (rule R171). -/
theorem cmdVendCancel_vend {i : Instance} (cfg : Config) (hvend : i.st = .vend) (hSent : i.approvalSent = false) :
    cmdVendCancel cfg i =
      accept { i with pend := { i.pend with vApp := false, vDen := true }, vendArmed := false } ackP :=
  if_pos ⟨hvend, hSent⟩

/-- VEND_CANCEL repeated after the vend (rule R171). -/
theorem cmdVendCancel_idle {i : Instance} (cfg : Config) (hidle : i.st = .idle) :
    cmdVendCancel cfg i = accept i ackP := by
  simp [cmdVendCancel, hidle]

/-- Settles O38: the accepted branch in VEND, which has no idle window to restart. -/
theorem vendCancelDeniesTheVend : Obligations.VendCancelDeniesTheVend := by
  intro s a i hframe hvend hSent
  have hrule : ruleOf .vendCancel s.cfg i = _ := cmdVendCancel_vend s.cfg hvend hSent
  rw [exec_accepted .vendCancel hframe nofun hrule, windowRestarted_of_ne_idle (by simp [hvend])]
  rfl

/-! ### VEND_SUCCESS and VEND_FAILURE -/

/-- VEND_SUCCESS after the approval was transmitted (rule R172). -/
theorem cmdVendSuccess_vend {i : Instance} (cfg : Config) (hvend : i.st = .vend) (hSent : i.approvalSent = true) :
    cmdVendSuccess cfg i =
      { inst := setState (notify i (.saleCompleted i.ctx.price i.ctx.item)) .idle
        resp := ackP
        accepted := true
        errs := lostNotification i } := by
  rw [← notifyEvent_eq]; exact if_pos ⟨hvend, hSent⟩

/-- VEND_SUCCESS repeated after the vend (rule R172). -/
theorem cmdVendSuccess_idle {i : Instance} (cfg : Config) (hidle : i.st = .idle) :
    cmdVendSuccess cfg i = accept i ackP := by
  simp [cmdVendSuccess, hidle]

/-- VEND_FAILURE in VEND (rule R173). -/
theorem cmdVendFailure_vend {i : Instance} (cfg : Config) (hvend : i.st = .vend) :
    cmdVendFailure cfg i = accept (setState i .idle) ackP := by
  simp [cmdVendFailure, hvend]

/-- VEND_FAILURE repeated after the vend (rule R173). -/
theorem cmdVendFailure_idle {i : Instance} (cfg : Config) (hidle : i.st = .idle) :
    cmdVendFailure cfg i = accept i ackP := by
  simp [cmdVendFailure, hidle]

/-- Settles O39: both outcomes enter IDLE, which starts the idle window that R210 would restart. -/
theorem vendOutcomeEndsTheVend : Obligations.VendOutcomeEndsTheVend := by
  intro s a i hframe hvend ended
  refine ⟨fun n hSent => ?success, ?failure⟩
  case success =>
    have hrule : ruleOf (.vendSuccess n) s.cfg i = _ := cmdVendSuccess_vend s.cfg hvend hSent
    rw [setState_vend_idle (by simp [notify, hvend])] at hrule
    rw [exec_accepted (.vendSuccess n) hframe nofun hrule, windowRestarted_of_armed rfl]
    rfl
  case failure =>
    have hrule : ruleOf .vendFailure s.cfg i = _ := cmdVendFailure_vend s.cfg hvend
    rw [setState_vend_idle hvend] at hrule
    rw [exec_accepted .vendFailure hframe nofun hrule, windowRestarted_of_armed rfl]
    rfl

/-! ### SESSION_COMPLETE -/

/-- SESSION_COMPLETE with a session open (rule R174). -/
theorem cmdSessionComplete_open {i : Instance} (cfg : Config) (h : i.st = .idle ∨ i.st = .vend) :
    cmdSessionComplete cfg i = accept (owingEnd i) ackP := by
  obtain h | h := h <;> simp [cmdSessionComplete, h]

/-- SESSION_COMPLETE repeated after the session's end (rule R174). -/
theorem cmdSessionComplete_enabled {i : Instance} (cfg : Config) (h : i.st = .enabled) :
    cmdSessionComplete cfg i = accept i ackP := by
  simp [cmdSessionComplete, h]

/-- The session's end owed in IDLE (rule R174). -/
theorem owingEnd_idle {i : Instance} (h : i.st = .idle) :
    owingEnd i = { i with pend := { i.pend with sCan := false, sEnd := true }, idleArmed := false } := by
  have hstay : setState i .idle = i := by rw [← h, setState_same]
  simp only [owingEnd, hstay]

/-- The session's end owed in VEND, which ends the vend too (rules R174, R213). -/
theorem owingEnd_vend {i : Instance} (h : i.st = .vend) :
    owingEnd i =
      { i with
        st := .idle
        pend := { i.pend with vApp := false, vDen := false, sCan := false, sEnd := true }
        approvalSent := false, vendArmed := false, idleArmed := false } := by
  simp only [owingEnd, setState_vend_idle h]

/-- SESSION_COMPLETE with a session open leaves the owed end; no idle window runs until it is reported (rules R174, R210). -/
theorem exec_sessionComplete_open {s : State} {a : Addr5} {i : Instance} (hframe : HasFrame s a i)
    (h : i.st = .idle ∨ i.st = .vend) :
    exec .sessionComplete s = .next (answered s a (owingEnd i) ackP []) := by
  rw [exec_accepted .sessionComplete hframe nofun (cmdSessionComplete_open s.cfg h), windowRestarted_of_sEnd rfl]

/-- Settles O40: the owed end in either state. -/
theorem sessionCompleteOwesTheEnd : Obligations.SessionCompleteOwesTheEnd := by
  intro s a i hframe
  refine ⟨fun hidle => ?idle, fun hvend => ?vend⟩
  case idle =>
    rw [exec_sessionComplete_open hframe (.inl hidle), owingEnd_idle hidle]
    rfl
  case vend =>
    rw [exec_sessionComplete_open hframe (.inr hvend), owingEnd_vend hvend]
    rfl

/-! ### Repeated commands -/

/-- Settles O41: each is accepted without effect, and of the three states only IDLE has an idle window to restart. -/
theorem repeatedVendCommandsAreAcknowledged : Obligations.RepeatedVendCommandsAreAcknowledged := by
  intro s a i hframe
  refine ⟨fun hvend => ?request, fun hidle => ⟨?cancel, fun n => ?success, ?failure⟩, fun henabled => ?complete⟩
  case request =>
    have hwindow : windowRestarted i = i := windowRestarted_of_ne_idle (by simp [hvend])
    rw [exec_acknowledged (.vendRequest _ _) hframe nofun (cmdVendRequest_repeated s.cfg hvend), hwindow]
  case cancel => exact exec_acknowledged .vendCancel hframe nofun (cmdVendCancel_idle s.cfg hidle)
  case success => exact exec_acknowledged (.vendSuccess n) hframe nofun (cmdVendSuccess_idle s.cfg hidle)
  case failure => exact exec_acknowledged .vendFailure hframe nofun (cmdVendFailure_idle s.cfg hidle)
  case complete =>
    have hwindow : windowRestarted i = i := windowRestarted_of_ne_idle (by simp [henabled])
    rw [exec_acknowledged .sessionComplete hframe nofun (cmdSessionComplete_enabled s.cfg henabled), hwindow]

end Sys2Proof.Machine
end

section
/-! The READER commands where they are accepted, in DISABLED and ENABLED (rules R190 to R192), and the fault of a frame that stands
for no request (rule R194). -/

namespace Sys2Proof.Machine

/-! ### The READER commands -/

/-- READER/DISABLE where it is accepted (rule R190). -/
theorem cmdReaderDisable_accepted {i : Instance} (cfg : Config) (h : i.st = .disabled ∨ i.st = .enabled) :
    cmdReaderDisable cfg i = accept (setState i .disabled) ackP := by
  simp [cmdReaderDisable, readerReady, h]

/-- READER/ENABLE where it is accepted (rule R191). -/
theorem cmdReaderEnable_accepted {i : Instance} (cfg : Config) (h : i.st = .disabled ∨ i.st = .enabled) :
    cmdReaderEnable cfg i = accept (setState i .enabled) ackP := by
  simp [cmdReaderEnable, readerReady, h]

/-- READER/CANCEL where it is accepted (rule R192). -/
theorem cmdReaderCancel_accepted {i : Instance} (cfg : Config) (h : i.st = .disabled ∨ i.st = .enabled) :
    cmdReaderCancel cfg i = accept { i with pend := { i.pend with sBeg := false } } respCancelled := by
  simp [cmdReaderCancel, readerReady, h]

/-- A reader that is disabled withdraws a session not yet begun (rule R213). -/
theorem setState_enabled_disabled {i : Instance} (h : i.st = .enabled) :
    setState i .disabled = { i with st := .disabled, pend := { i.pend with sBeg := false } } := by
  simp [setState, h, leaveState, enterState]

/-- A reader that is enabled changes its state alone (rule R213). -/
theorem setState_disabled_enabled {i : Instance} (h : i.st = .disabled) :
    setState i .enabled = { i with st := .enabled } := by
  simp [setState, h, leaveState, enterState]

/-- An accepted command that leaves the session in another state than IDLE has no idle window to restart (rules R210, R211). -/
theorem exec_accepted_of_ne_idle {s : State} {a : Addr5} {i j : Instance} {resp : List Word9} (r : Instr)
    (hframe : HasFrame s a i) (hkind : r.kind ≠ .poll) (hrule : ruleOf r s.cfg i = accept j resp) (hidle : j.st ≠ .idle) :
    exec r s = .next (answered s a j resp []) := by
  rw [exec_accepted r hframe hkind hrule, windowRestarted_of_ne_idle hidle]

/-- READER/DISABLE where it is accepted: ACK, and the reader DISABLED (rules R190, R210). -/
theorem exec_readerDisable {s : State} {a : Addr5} {i : Instance} (hframe : HasFrame s a i)
    (h : i.st = .disabled ∨ i.st = .enabled) :
    exec .readerDisable s = .next (answered s a (setState i .disabled) ackP []) :=
  exec_accepted_of_ne_idle .readerDisable hframe nofun (cmdReaderDisable_accepted s.cfg h) (by simp)

/-- READER/ENABLE where it is accepted: ACK, and the reader ENABLED (rules R191, R210). -/
theorem exec_readerEnable {s : State} {a : Addr5} {i : Instance} (hframe : HasFrame s a i)
    (h : i.st = .disabled ∨ i.st = .enabled) :
    exec .readerEnable s = .next (answered s a (setState i .enabled) ackP []) :=
  exec_accepted_of_ne_idle .readerEnable hframe nofun (cmdReaderEnable_accepted s.cfg h) (by simp)

/-- Settles O42: either command sets its state; the one the reader is in stays as it is, and only leaving ENABLED withdraws
`sBeg`. -/
theorem readerCommandsSwitchTheReader : Obligations.ReaderCommandsSwitchTheReader := by
  intro s a i hframe
  refine ⟨fun henabled => ?enabled, fun hdisabled => ?disabled⟩
  case enabled =>
    have hstay : setState i .enabled = i := henabled ▸ setState_same i
    rw [exec_readerDisable hframe (.inr henabled), exec_readerEnable hframe (.inr henabled),
      setState_enabled_disabled henabled, hstay]
    exact ⟨rfl, rfl⟩
  case disabled =>
    have hstay : setState i .disabled = i := hdisabled ▸ setState_same i
    rw [exec_readerDisable hframe (.inl hdisabled), exec_readerEnable hframe (.inl hdisabled),
      setState_disabled_enabled hdisabled, hstay]
    exact ⟨rfl, rfl⟩

/-- CANCELLED with its checksum on the line (rules R76, R192). -/
theorem respCancelled_eq : respCancelled = [0x008, 0x108] := by decide

/-- Settles O43: the accepted branch keeps the state, which is not IDLE, and answers CANCELLED. -/
theorem readerCancelWithdrawsTheSession : Obligations.ReaderCancelWithdrawsTheSession := by
  intro s a i hframe hst
  have hidle : i.st ≠ .idle := by rcases hst with h | h <;> simp [h]
  have hrule : ruleOf .readerCancel s.cfg i = _ := cmdReaderCancel_accepted s.cfg hst
  rw [exec_accepted_of_ne_idle .readerCancel hframe nofun hrule hidle, respCancelled_eq]

/-! ### The frame step on an unassigned frame -/

/-- The step that takes a frame is PROTO's frame step (rules R210, R230). -/
theorem step_frame {s : State} {rest : List Move} (h : Offered s .peripheral .frame rest) (hslot : s.rxSlot ≠ none) :
    step s = frameStep { s with agenda := rest } := by
  have ⟨_, hrole, _⟩ := h
  have henabled : enabled { s with agenda := rest } .frame = true := by
    rw [enabled, hrole]
    exact (peripheralEnabled_frame_iff _).2 hslot
  calc step s = takeMove { s with agenda := rest } .frame := step_of_offered h
    _ = frameStep { s with agenda := rest } := if_pos henabled

/-- A frame that stands for no request faults with the decoder's reason (rule R194, notes/assumptions/13.md). -/
theorem frameStep_undecodable {s : State} {a : Addr5} {f : List Byte} {why : DecodeError} (hslot : s.rxSlot = some (a, f))
    (hdecode : decode f = .error why) : frameStep s = .fault (.unassignedFrame why) := by
  simp [frameStep, State.fetch, hslot, hdecode]

/-- Settles O26: the guard of the frame step holds, and the fetched frame does not decode. -/
theorem unassignedFrameFaults : Obligations.UnassignedFrameFaults := by
  intro s a f why rest h hslot hdecode
  rw [step_frame h (by simp [hslot])]
  exact frameStep_undecodable (s := { s with agenda := rest }) hslot hdecode

end Sys2Proof.Machine
end

section
/-! What only some moves do: only PROTO's frame step changes the state of a session or writes a response, and only the transmit
step emits one (rules R210, R215, R225); and no step fails from a state that meets an invariant (rule R230). -/

namespace Sys2Proof.Machine

/-! ### All that a step can be -/

/-- All that a step can be, where it answers a next state: a wait, PROTO's frame step, or the effect of another enabled move,
each in `s` with some `agenda`. -/
theorem step_next_cases {s t : State} (h : step s = .next t) :
    ∃ rest, t = { s with agenda := rest } ∨
      (FrameIsNext s ∧ frameStep { s with agenda := rest } = .next t) ∨
      ∃ mv, mv ≠ .frame ∧ enabled { s with agenda := rest } mv = true ∧ t = performMove { s with agenda := rest } mv := by
  obtain ⟨-, rfl | ⟨mv, s', hnext, hmove⟩⟩ := step_next h
  · exact ⟨t.agenda, .inl rfl⟩
  obtain ⟨rest, rfl, hframe⟩ : ∃ rest, s' = { s with agenda := rest } ∧ (mv = .frame → FrameIsNext s) := by
    obtain ⟨hempty, hidle, rfl⟩ | ⟨rest, hagenda, rfl⟩ := hnext
    · exact ⟨s'.agenda, rfl, fun hmv => .inr ⟨hempty, hmv ▸ hidle⟩⟩
    · exact ⟨rest, rfl, fun hmv => .inl (by simp [hagenda, hmv])⟩
  refine ⟨rest, ?_⟩
  obtain ⟨-, hs⟩ | ⟨-, hmv, hs⟩ | ⟨henabled, hmv, hs⟩ := takeMove_cases { s with agenda := rest } mv
  · exact .inl (by simpa [hs] using hmove.symm)
  · exact .inr (.inl ⟨hframe hmv, hs ▸ hmove⟩)
  · exact .inr (.inr ⟨mv, hmv, henabled, by simpa [hs] using hmove.symm⟩)

/-- All that PROTO's frame step can answer: it takes the frame of an owned address and answers its request, or discards a frame
of another address, or has no frame. -/
theorem frameStep_next_cases {s t : State} (h : frameStep s = .next t) :
    (s.rxSlot = none ∧ t = s) ∨
      ∃ a f, s.rxSlot = some (a, f) ∧ (t = s.discard a ∨
        ∃ r i, decode f = .ok r ∧ s.instanceAt a = some i ∧ t = s.answer a r.kind (ruleOf r s.cfg i)) := by
  obtain ⟨hslot, hs⟩ | ⟨a, f, r, hslot, hdecode, hs⟩ | ⟨a, f, why, -, -, hs⟩ := frameStep_cases s
  · exact .inl ⟨hslot, by simpa [hs] using h.symm⟩
  · refine .inr ⟨a, f, hslot, ?_⟩
    obtain ⟨hnone, -⟩ | ⟨b, g, hb, -, hexec⟩ | ⟨b, g, i, hb, hi, hexec⟩ := exec_cases r s
    · simp [hslot] at hnone
    all_goals
      obtain ⟨rfl, rfl⟩ : a = b ∧ f = g := by simpa [hslot] using hb
    · exact .inl (by simpa [hs, hexec] using h.symm)
    · exact .inr ⟨r, i, hdecode, hi, by simpa [hs, hexec] using h.symm⟩
  · simp [hs] at h

/-! ### Moves on one session -/

/-- `t` is `s` but for its sessions, what LINE received and the observations other than the words emitted, and every session is
in the state it was in. -/
structure SessionTouched (s t : State) : Prop where
  rest : t = { s with
    inst := t.inst, rx := t.rx, rxSlot := t.rxSlot, log := t.log, seen := t.seen, results := t.results }
  states : ∀ b, (t.instanceAt b).map Instance.st = (s.instanceAt b).map Instance.st

theorem SessionTouched.refl (s : State) : SessionTouched s s := ⟨rfl, fun _ => rfl⟩

/-- A write to one session that keeps its state, with some observations. -/
theorem sessionTouched_put {s : State} {a : Addr5} {i i' : Instance} (hi : s.instanceAt a = some i) (hst : i'.st = i.st)
    (log : List ErrorEvent) (seen : List Observed) (results : List (Addr5 × SendResult)) :
    SessionTouched s { s with inst := updateAt a i' s.inst, log := log, seen := seen, results := results } := by
  refine ⟨rfl, fun b => ?_⟩
  rw [State.instanceAt] at hi
  simp only [State.instanceAt, lookupAt_updateAt]
  split
  · rename_i hb
    simp [hb, hi, hst]
  · rfl

/-- Applying a host call leaves the state of the session (rules R220 to R223). -/
@[simp] theorem applyCall_st (c : InboundCall) (i : Instance) : (applyCall c i).1.st = i.st := by
  cases c with
  | requestSession f => simp only [applyCall, applyRequestSession]; split <;> rfl
  | approveVend => simp only [applyCall, applyApproveVend]; split <;> rfl
  | denyVend => simp only [applyCall, applyDenyVend]; split <;> rfl
  | cancelSession => simp only [applyCall, applyCancelSession]; split_ifs <;> rfl

theorem consumeCall_touched (s : State) (a : Addr5) : SessionTouched s (consumeCall s a) := by
  rcases hi : s.instanceAt a with _ | i
  · simpa [consumeCall, hi] using .refl s
  · rcases hq : i.inq with _ | c
    · simpa [consumeCall, hi, hq] using .refl s
    · simpa [consumeCall, hi, hq, State.putInstance, State.raise] using
        sessionTouched_put hi (applyCall_st c { i with inq := none }) _ _ _

theorem sendCall_touched (s : State) (a : Addr5) (c : InboundCall) : SessionTouched s (sendCall s a c) := by
  rcases hi : s.instanceAt a with _ | i
  · simpa [sendCall, hi] using .refl s
  · rcases hq : i.inq with _ | d
    · simpa [sendCall, hi, hq, State.putInstance, State.answerHost] using
        sessionTouched_put (i' := { i with inq := some c }) hi rfl _ _ _
    · simpa [sendCall, hi, hq] using ⟨rfl, fun _ => rfl⟩

theorem readNotification_touched (s : State) (a : Addr5) : SessionTouched s (readNotification s a) := by
  rcases hi : s.instanceAt a with _ | i
  · simpa [readNotification, hi] using .refl s
  · rcases ho : i.outSlot with _ | n
    · simpa [readNotification, hi, ho] using .refl s
    · simpa [readNotification, hi, ho, State.putInstance, State.observe] using
        sessionTouched_put (i' := { i with outSlot := none }) hi rfl _ _ _

theorem idleTimeout_touched (s : State) (a : Addr5) : SessionTouched s (idleTimeout s a) := by
  rcases hi : s.instanceAt a with _ | i
  · simpa [idleTimeout, hi] using .refl s
  · simpa [idleTimeout, hi, State.putInstance] using
      sessionTouched_put (i' := { i with pend := { i.pend with sCan := true }, idleArmed := false }) hi rfl _ _ _

theorem vendTimeout_touched (s : State) (a : Addr5) : SessionTouched s (vendTimeout s a) := by
  rcases hi : s.instanceAt a with _ | i
  · simpa [vendTimeout, hi] using .refl s
  · simpa [vendTimeout, hi, State.putInstance] using
      sessionTouched_put (i' := { i with pend := { i.pend with vDen := true }, vendArmed := false }) hi rfl _ _ _

theorem receiveWord_touched (s : State) (w : Word9) : SessionTouched s (receiveWord s w) := by
  obtain ⟨rx, slot, es, hs, -⟩ := receiveWord_fields s w
  rw [hs]
  exact ⟨rfl, fun _ => rfl⟩

/-! ### Moves of MSEQ and its host -/

/-- MSEQ writes neither the sessions nor the response slot. -/
theorem complete_peripheralSide (s : State) (a : Addr5) (req : Instr) (c : ResponseClass) :
    (complete s a req c).inst = s.inst ∧ (complete s a req c).txSlot = s.txSlot := by
  obtain ⟨-, hs⟩ | ⟨m, -, hs⟩ := complete_cases s a req c <;> rw [hs] <;> exact ⟨rfl, rfl⟩

theorem startTransaction_peripheralSide (s : State) :
    (startTransaction s).inst = s.inst ∧ (startTransaction s).txSlot = s.txSlot := by
  obtain hs | ⟨a, m, -, -, hs⟩ := startTransaction_cases s <;> rw [hs] <;> exact ⟨rfl, rfl⟩

theorem receiveResponse_peripheralSide (s : State) (w : Word9) :
    (receiveResponse s w).inst = s.inst ∧ (receiveResponse s w).txSlot = s.txSlot := by
  obtain ⟨-, hs⟩ | ⟨a, req, buf, -, ⟨-, hs⟩ | ⟨-, -, hs⟩ | ⟨-, -, hs⟩⟩ := receiveResponse_cases s w <;> rw [hs]
  · exact ⟨rfl, rfl⟩
  · exact complete_peripheralSide ..
  · exact ⟨rfl, rfl⟩
  · exact complete_peripheralSide ..

theorem responseTimeout_peripheralSide (s : State) :
    (responseTimeout s).inst = s.inst ∧ (responseTimeout s).txSlot = s.txSlot := by
  rcases hp : s.phase with _ | ⟨a, req, buf⟩
  · rw [responseTimeout_idle hp]; exact ⟨rfl, rfl⟩
  · rw [responseTimeout_await hp]; exact complete_peripheralSide ..

theorem sendHostCmd_peripheralSide (s : State) (a : Addr5) (c : HostCmd) :
    (sendHostCmd s a c).inst = s.inst ∧ (sendHostCmd s a c).txSlot = s.txSlot := by
  unfold sendHostCmd
  split
  · exact ⟨rfl, rfl⟩
  · split <;> exact ⟨rfl, rfl⟩

theorem readMasterNotification_peripheralSide (s : State) (a : Addr5) :
    (readMasterNotification s a).inst = s.inst ∧ (readMasterNotification s a).txSlot = s.txSlot := by
  unfold readMasterNotification
  split
  · exact ⟨rfl, rfl⟩
  · split <;> exact ⟨rfl, rfl⟩

/-! ### Every move but the frame step -/

/-- A move that no PERIPHERAL makes is enabled at a MASTER only (rules R230, R240). -/
theorem role_of_enabled_master {s : State} {mv : Move} (he : enabled s mv = true)
    (hmv : peripheralEnabled s mv = false) : s.cfg.role = .master := by
  rcases hr : s.cfg.role with _ | _
  · rfl
  · simp [enabled, hr, hmv] at he

/-- All that an enabled move other than the frame step can do, as far as sessions and responses go: it keeps the state of every
session and the response, it transmits the response, or it is a MASTER's, which writes neither. -/
theorem performMove_cases {s : State} {mv : Move} (he : enabled s mv = true) :
    SessionTouched s (performMove s mv) ∨ performMove s mv = transmit s ∨
      (s.cfg.role = .master ∧ (performMove s mv).inst = s.inst ∧ (performMove s mv).txSlot = s.txSlot) := by
  cases mv with
  | rxWord w =>
    rcases hr : s.cfg.role with _ | _ <;> simp only [performMove, receive, hr]
    · exact .inr (.inr ⟨trivial, receiveResponse_peripheralSide s w⟩)
    · exact .inl (receiveWord_touched s w)
  | transmit => exact .inr (.inl rfl)
  | frame => exact .inl (.refl s)
  | consume a => exact .inl (consumeCall_touched s a)
  | hostCall a c => exact .inl (sendCall_touched s a c)
  | hostRead a =>
    rcases hr : s.cfg.role with _ | _ <;> simp only [performMove, hostRead, hr]
    · exact .inr (.inr ⟨trivial, readMasterNotification_peripheralSide s a⟩)
    · exact .inl (readNotification_touched s a)
  | idleTimeout a => exact .inl (idleTimeout_touched s a)
  | vendTimeout a => exact .inl (vendTimeout_touched s a)
  | start => exact .inr (.inr ⟨role_of_enabled_master he rfl, startTransaction_peripheralSide s⟩)
  | rspTimeout => exact .inr (.inr ⟨role_of_enabled_master he rfl, responseTimeout_peripheralSide s⟩)
  | hostCmd a c => exact .inr (.inr ⟨role_of_enabled_master he rfl, sendHostCmd_peripheralSide s a c⟩)

/-- Only the frame step changes the state of a session (rules R213, R215). -/
theorem performMove_states {s : State} {mv : Move} (he : enabled s mv = true) (b : Addr5) :
    ((performMove s mv).instanceAt b).map Instance.st = (s.instanceAt b).map Instance.st := by
  obtain htouched | hs | ⟨-, hinst, -⟩ := performMove_cases he
  · exact htouched.states b
  · rcases ht : s.txSlot with _ | ws
    · rw [hs, transmit_none ht]
    · rw [hs, transmit_some ht]; rfl
  · rw [State.instanceAt, hinst, State.instanceAt]

/-- Only the frame step writes a response: another move keeps it or empties the slot (rule R225). -/
theorem performMove_txSlot {s : State} {mv : Move} (he : enabled s mv = true) :
    (performMove s mv).txSlot = s.txSlot ∨ (performMove s mv).txSlot = none := by
  obtain htouched | hs | ⟨-, -, htx⟩ := performMove_cases he
  · exact .inl (by rw [htouched.rest])
  · rcases ht : s.txSlot with _ | ws
    · exact .inl (by rw [hs, transmit_none ht, ht])
    · exact .inr (by rw [hs, transmit_some ht])
  · exact .inl htx

/-- Only the transmit step of a PERIPHERAL emits, and what it emits is the response it held (rules R129, R225). -/
theorem performMove_out {s : State} {mv : Move} (hr : s.cfg.role = .peripheral) (he : enabled s mv = true) :
    (performMove s mv).out = s.out ∨
      ∃ ws, s.txSlot = some ws ∧ (performMove s mv).txSlot = none ∧ (performMove s mv).out = s.out ++ ws := by
  obtain htouched | hs | ⟨hmaster, -, -⟩ := performMove_cases he
  · exact .inl (by rw [htouched.rest])
  · rw [hs]
    rcases ht : s.txSlot with _ | ws
    · exact .inl (by rw [transmit_none ht])
    · exact .inr ⟨ws, rfl, by rw [transmit_some ht], by rw [transmit_some ht]⟩
  · simp [hr] at hmaster

/-! ### Commands and the state INACTIVE -/

/-- The restart of the idle window leaves the state (rule R210). -/
@[simp] theorem restartIdle_st (k : Kind) (r : CmdResult) : (restartIdle k r).st = r.inst.st := by
  unfold restartIdle; split <;> rfl

/-- No drain enters INACTIVE without `OOS_TO_INACTIVE` (rules R161 to R168). -/
theorem drain_ne_inactive {cfg : Config} {i : Instance} (hstay : cfg.oosToInactive = false) (hi : i.st ≠ .inactive) :
    (drain cfg i).inst.st ≠ .inactive := by
  obtain ⟨-, hd⟩ | ⟨-, -, hd⟩ | ⟨-, -, -, hd⟩ | ⟨-, -, -, -, hd⟩ | ⟨-, -, -, -, -, hd⟩ | ⟨-, -, -, -, -, -, hd⟩ |
    ⟨-, -, -, -, -, -, -, hd⟩ | ⟨-, hd⟩ := drain_cases cfg i <;> rw [hd]
  · simp [drainOos, hstay, accept, hi]
  · exact hi
  · exact hi
  · simp [drainVDen, accept]
  · simp [drainSEnd, notify]
  · simp [drainSBeg, accept]
  · exact hi
  · exact hi

/-- No command but RESET enters INACTIVE without `OOS_TO_INACTIVE` (rules R213 to R215). -/
theorem ruleOf_ne_inactive {cfg : Config} {i : Instance} {r : Instr} (hr : r ≠ .reset) (hstay : cfg.oosToInactive = false)
    (hi : i.st ≠ .inactive) : (ruleOf r cfg i).inst.st ≠ .inactive := by
  cases r with
  | reset => exact absurd rfl hr
  | poll => exact drain_ne_inactive hstay hi
  | configData => simp only [ruleOf, cmdConfigData]; split <;> simp [accept, oos, hi]
  | maxMinPrices => simp only [ruleOf, cmdMaxMinPrices]; split <;> simp [accept, oos, hi]
  | vendRequest p n =>
    simp only [ruleOf, cmdVendRequest, beginVend]
    split_ifs <;> simp [accept, oos, hi]
  | vendCancel => simp only [ruleOf, cmdVendCancel]; split_ifs <;> simp [accept, oos, hi]
  | vendSuccess => simp only [ruleOf, cmdVendSuccess]; split_ifs <;> simp [accept, oos, hi]
  | vendFailure => simp only [ruleOf, cmdVendFailure]; split <;> simp [accept, oos, hi]
  | sessionComplete => simp only [ruleOf, cmdSessionComplete, owingEnd]; split <;> simp [accept, oos, hi]
  | cashSale => simp only [ruleOf, cmdCashSale]; split <;> simp [accept, oos, hi]
  | readerDisable => simp only [ruleOf, cmdReaderDisable]; split <;> simp [accept, oos, hi]
  | readerEnable => simp only [ruleOf, cmdReaderEnable]; split <;> simp [accept, oos, hi]
  | readerCancel => simp only [ruleOf, cmdReaderCancel]; split <;> simp [accept, oos, hi]
  | requestId => simp only [ruleOf, cmdRequestId]; split <;> simp [accept, oos, hi]

/-- A frame step that brings a session to INACTIVE took a RESET frame for it. -/
theorem frameStep_inactive {s t : State} {a : Addr5} {i j : Instance} (hstay : s.cfg.oosToInactive = false)
    (h : frameStep s = .next t) (hi : s.instanceAt a = some i) (hst : i.st ≠ .inactive) (hj : t.instanceAt a = some j)
    (hjst : j.st = .inactive) : ∃ f, s.rxSlot = some (a, f) ∧ decode f = .ok .reset := by
  have hchanged : t.instanceAt a ≠ s.instanceAt a := fun hsame => by
    obtain rfl : j = i := by simpa [hsame, hi] using hj.symm
    exact hst hjst
  obtain ⟨-, rfl⟩ | ⟨b, f, hslot, rfl | ⟨r, i', hdecode, hi', rfl⟩⟩ := frameStep_next_cases h
  · exact absurd rfl hchanged
  · exact absurd rfl hchanged
  · rw [State.instanceAt, State.answer_inst, lookupAt_updateAt] at hj
    split at hj
    · rename_i hab
      subst hab
      obtain rfl : i' = i := by simpa [hi] using hi'.symm
      obtain rfl : restartIdle r.kind (ruleOf r s.cfg i') = j := by
        rw [State.instanceAt] at hi
        simpa [hi] using hj
      refine ⟨f, hslot, ?_⟩
      by_contra hr
      exact ruleOf_ne_inactive (fun hreset => hr (hreset ▸ hdecode)) hstay hst (by simpa using hjst)
    · rename_i hab
      exact absurd (lookupAt_updateAt_ne hab _ _) hchanged

/-- Settles O30: no move but the frame step changes the state of a session, and of the requests it takes only RESET enters
INACTIVE. -/
theorem onlyResetYieldsInactive : Obligations.OnlyResetYieldsInactive := by
  intro s t a i j hstay h hi hst hj hjst
  have hchanged : (t.instanceAt a).map Instance.st ≠ (s.instanceAt a).map Instance.st := by
    simpa [hi, hj, hjst] using hst.symm
  obtain ⟨rest, rfl | ⟨hframe, hstep⟩ | ⟨mv, -, henabled, rfl⟩⟩ := step_next_cases h
  · exact absurd rfl hchanged
  · exact ⟨hframe, frameStep_inactive (s := { s with agenda := rest }) hstay hstep hi hst hj hjst⟩
  · exact absurd (performMove_states henabled a) hchanged

/-- Settles O24: the frame step alone writes a response, and only with a frame; the transmit step alone emits it. -/
theorem noUnsolicitedTransmission : Obligations.NoUnsolicitedTransmission := by
  intro s t h
  obtain ⟨rest, rfl | ⟨hframe, hstep⟩ | ⟨mv, -, henabled, rfl⟩⟩ := step_next_cases h
  case inl => exact ⟨fun ws ht hs => absurd ht hs, fun _ hout => absurd rfl hout⟩
  case inr.inl =>
    obtain ⟨-, rfl⟩ | ⟨a, f, hslot, ht⟩ := frameStep_next_cases hstep
    · exact ⟨fun ws ht hs => absurd ht hs, fun _ hout => absurd rfl hout⟩
    · have hkept : t.out = s.out := by obtain rfl | ⟨r, i, -, -, rfl⟩ := ht <;> rfl
      have hslot' : s.rxSlot = some (a, f) := hslot
      exact ⟨fun _ _ _ => ⟨hframe, by simp [hslot']⟩, fun _ hout => absurd hkept hout⟩
  case inr.inr =>
    refine ⟨fun ws ht hs => ?response, fun hr hout => ?output⟩
    case response =>
      obtain hkept | hempty := performMove_txSlot henabled
      · exact absurd (hkept ▸ ht) hs
      · simp [hempty] at ht
    case output => exact (performMove_out (s := { s with agenda := rest }) hr henabled).resolve_left hout

/-! ### No step fails -/

/-- The frame step answers a next state where a frame in the slot stands for a request (rules R194, R230). -/
theorem frameStep_succeeds {s : State} (h : ∀ a f, s.rxSlot = some (a, f) → ∃ r, decode f = .ok r) :
    ∃ t, frameStep s = .next t := by
  obtain ⟨-, hs⟩ | ⟨a, f, r, -, -, hs⟩ | ⟨a, f, why, hslot, hdecode, -⟩ := frameStep_cases s
  · exact ⟨s, hs⟩
  · obtain ⟨-, hexec⟩ | ⟨b, g, -, -, hexec⟩ | ⟨b, g, i, -, -, hexec⟩ := exec_cases r s <;> exact ⟨_, hs.trans hexec⟩
  · obtain ⟨r, hr⟩ := h a f hslot
    simp [hdecode] at hr

/-- A step from legal parameters answers a next state, where a frame the frame step could take stands for a request. -/
theorem step_succeeds {s : State} (hc : configOk s.cfg = true)
    (h : s.cfg.role = .peripheral → ∀ a f, s.rxSlot = some (a, f) → ∃ r, decode f = .ok r) :
    ∃ t, step s = .next t := by
  have hmove (rest : List Move) (mv : Move) : ∃ t, takeMove { s with agenda := rest } mv = .next t := by
    obtain ⟨-, hs⟩ | ⟨henabled, rfl, hs⟩ | ⟨-, -, hs⟩ := takeMove_cases { s with agenda := rest } mv
    · exact ⟨_, hs⟩
    · rw [hs]
      refine frameStep_succeeds (h ?_)
      rcases hr : s.cfg.role with _ | _
      · simp [enabled, hr, masterEnabled] at henabled
      · rfl
    · exact ⟨_, hs⟩
  rw [step_eq hc, nextMove]
  rcases ha : s.agenda with _ | ⟨mv, rest⟩
  · rcases idleMove s with _ | mv
    · exact ⟨s, rfl⟩
    · exact hmove s.agenda mv
  · exact hmove rest mv

/-- Settles O8: LINE hands over only frames that stand for a request, and a MASTER takes none. -/
theorem noStepFailsUnderTheInvariants : Obligations.NoStepFailsUnderTheInvariants := by
  rintro s (h | h)
  · refine step_succeeds h.tables.config fun _ a f hslot => ?_
    obtain ⟨-, -, hdecodes⟩ := h.slot a f hslot
    exact hdecodes
  · exact step_succeeds h.tables.config fun hr => by simp [h.role] at hr

end Sys2Proof.Machine
end

section
/-! The command-by-state table (rule R214): a refused request is out of sequence (rule R212), an accepted one taken again
changes nothing (rule R216), and no request touches more than the addressed session (rules R210, R211). -/

namespace Sys2Proof.Machine

/-! ### Refused requests -/

/-- A request whose entry of the table is OOS is answered by the out-of-sequence path (rules R212, R214). -/
theorem ruleOf_refused {r : Instr} {i : Instance} (cfg : Config) (h : accepts r i = false) :
    ruleOf r cfg i = oos r.kind i := by
  cases r with
  | reset => simp [accepts] at h
  | poll => simp [accepts] at h
  | configData => cases hs : i.st <;> simp_all [accepts, ruleOf, cmdConfigData, Instr.kind]
  | maxMinPrices => cases hs : i.st <;> simp_all [accepts, ruleOf, cmdMaxMinPrices, Instr.kind]
  | vendRequest p n => cases hs : i.st <;> simp_all [accepts, ruleOf, cmdVendRequest, Instr.kind]
  | vendCancel => cases hs : i.st <;> simp_all [accepts, ruleOf, cmdVendCancel, Instr.kind]
  | vendSuccess => cases hs : i.st <;> simp_all [accepts, ruleOf, cmdVendSuccess, Instr.kind]
  | vendFailure => cases hs : i.st <;> simp_all [accepts, ruleOf, cmdVendFailure, Instr.kind]
  | sessionComplete => cases hs : i.st <;> simp_all [accepts, ruleOf, cmdSessionComplete, Instr.kind]
  | cashSale => exact if_pos (by simpa [accepts] using h)
  | readerDisable => exact if_neg (by simpa [accepts, readerReady] using h)
  | readerEnable => exact if_neg (by simpa [accepts, readerReady] using h)
  | readerCancel => exact if_neg (by simpa [accepts, readerReady] using h)
  | requestId => exact if_neg (by simpa [accepts, readerReady] using h)

/-- Settles O28: the out-of-sequence path, which restarts no idle window. -/
theorem refusedRequestsAreOutOfSequence : Obligations.RefusedRequestsAreOutOfSequence := by
  intro r s a i hframe h
  have hrule := ruleOf_refused s.cfg h
  have hwindow : restartIdle r.kind (oos r.kind i) = (oos r.kind i).inst := restartIdle_refused rfl
  rw [exec_answered r hframe, hrule, hwindow]
  rfl

/-! ### Requests taken twice -/

@[simp] theorem windowRestarted_st (i : Instance) : (windowRestarted i).st = i.st := by
  unfold windowRestarted; split <;> rfl

@[simp] theorem windowRestarted_idempotent (i : Instance) : windowRestarted (windowRestarted i) = windowRestarted i := by
  unfold windowRestarted
  split_ifs <;> rfl

/-- `r`, taken from the session `j` with its idle window restarted, is accepted, answered `resp` and changes nothing. -/
def Repeats (r : Instr) (cfg : Config) (j : Instance) (resp : List Word9) : Prop :=
  ∃ errs, ruleOf r cfg (windowRestarted j) = ⟨windowRestarted j, resp, true, errs⟩

section
variable {r : Instr} {cfg : Config} {i j : Instance} {resp : List Word9}

/-- A session that is not IDLE has no idle window to restart. -/
theorem repeats_of_ne_idle (hst : j.st ≠ .idle) (h : ruleOf r cfg j = accept j resp) : Repeats r cfg j resp :=
  ⟨[], by rw [windowRestarted_of_ne_idle hst]; exact h⟩

/-- A request that changes nothing in a given state changes nothing after the idle window is restarted. -/
theorem repeats_of_state {st : SessionState} (hst : j.st = st)
    (h : ∀ j : Instance, j.st = st → ruleOf r cfg j = accept j resp) : Repeats r cfg j resp :=
  ⟨[], h _ (by simpa using hst)⟩

/-- A vend that opens keeps the price and the item of its request (rule R170). -/
theorem beginVend_repeats (cfg : Config) (i : Instance) (p n : U16) :
    Repeats (.vendRequest p n) cfg (beginVend cfg i p n) ackP := by
  have hvend : (beginVend cfg i p n).st = .vend := by unfold beginVend; split_ifs <;> simp
  have hctx : (beginVend cfg i p n).ctx = { i.ctx with price := p, item := n } := by unfold beginVend; split_ifs <;> simp
  have hrepeat := cmdVendRequest_repeated cfg hvend
  rw [hctx] at hrepeat
  exact repeats_of_ne_idle (by simp [hvend]) hrepeat

/-- The owed end of a session is owed once (rule R174). -/
theorem owingEnd_repeats (cfg : Config) (i : Instance) : Repeats .sessionComplete cfg (owingEnd i) ackP := by
  have hidle : (owingEnd i).st = .idle := setState_st i .idle
  have hsame : owingEnd (owingEnd i) = owingEnd i := by rw [owingEnd_idle hidle]; rfl
  have hwindow : windowRestarted (owingEnd i) = owingEnd i := windowRestarted_of_sEnd rfl
  refine ⟨[], ?_⟩
  rw [hwindow]
  exact (cmdSessionComplete_open cfg (.inl hidle)).trans (by rw [hsame]; rfl)

/-- Every accepted request but POLL, taken again, is accepted with the same answer and changes nothing (rules R214, R216). -/
theorem ruleOf_accepted (hr : r ≠ .poll) (h : accepts r i = true) :
    ∃ j resp errs, ruleOf r cfg i = ⟨j, resp, true, errs⟩ ∧ Repeats r cfg j resp := by
  cases r with
  | poll => exact absurd rfl hr
  | reset =>
    by_cases hsale : i.st = .vend ∧ i.approvalSent = true
    · exact ⟨_, _, _, cmdReset_sold cfg hsale, repeats_of_ne_idle nofun rfl⟩
    · exact ⟨_, _, _, cmdReset_unsold cfg hsale, repeats_of_ne_idle nofun rfl⟩
  | configData =>
    have hst : i.st = .inactive ∨ i.st = .disabled := by simpa [accepts] using h
    have hagain := cmdConfigData_accepted (i := { i with st := .disabled }) cfg (.inr rfl)
    exact ⟨_, _, _, cmdConfigData_accepted cfg hst, repeats_of_ne_idle nofun hagain⟩
  | maxMinPrices =>
    have hst : i.st = .disabled ∨ i.st = .enabled := by simpa [accepts] using h
    have hrule := cmdMaxMinPrices_accepted cfg hst
    exact ⟨_, _, _, hrule, repeats_of_ne_idle (by rcases hst with h | h <;> simp [h]) hrule⟩
  | vendRequest p n =>
    have hst : (i.st = .idle ∧ i.pend.sEnd = false) ∨ (i.st = .vend ∧ p = i.ctx.price) ∧ n = i.ctx.item := by
      simpa [accepts] using h
    obtain ⟨hidle, hEnd⟩ | ⟨⟨hvend, rfl⟩, rfl⟩ := hst
    · exact ⟨_, _, _, cmdVendRequest_idle cfg p n hidle hEnd, beginVend_repeats cfg i p n⟩
    · have hrule := cmdVendRequest_repeated cfg hvend
      exact ⟨_, _, _, hrule, repeats_of_ne_idle (by simp [hvend]) hrule⟩
  | vendCancel =>
    have hst : i.st = .idle ∨ i.st = .vend ∧ i.approvalSent = false := by simpa [accepts] using h
    obtain hidle | ⟨hvend, hSent⟩ := hst
    · exact ⟨_, _, _, cmdVendCancel_idle cfg hidle, repeats_of_state hidle fun _ h => cmdVendCancel_idle cfg h⟩
    · exact ⟨_, _, _, cmdVendCancel_vend cfg hvend hSent,
        repeats_of_ne_idle (by simp [hvend]) (cmdVendCancel_vend cfg hvend hSent)⟩
  | vendSuccess =>
    have hst : i.st = .idle ∨ i.st = .vend ∧ i.approvalSent = true := by simpa [accepts] using h
    obtain hidle | ⟨hvend, hSent⟩ := hst
    · exact ⟨_, _, _, cmdVendSuccess_idle cfg hidle, repeats_of_state hidle fun _ h => cmdVendSuccess_idle cfg h⟩
    · exact ⟨_, _, _, cmdVendSuccess_vend cfg hvend hSent,
        repeats_of_state (setState_st _ .idle) fun _ h => cmdVendSuccess_idle cfg h⟩
  | vendFailure =>
    have hst : i.st = .idle ∨ i.st = .vend := by simpa [accepts] using h
    obtain hidle | hvend := hst
    · exact ⟨_, _, _, cmdVendFailure_idle cfg hidle, repeats_of_state hidle fun _ h => cmdVendFailure_idle cfg h⟩
    · exact ⟨_, _, _, cmdVendFailure_vend cfg hvend,
        repeats_of_state (setState_st _ .idle) fun _ h => cmdVendFailure_idle cfg h⟩
  | sessionComplete =>
    have hst : (i.st = .enabled ∨ i.st = .idle) ∨ i.st = .vend := by simpa [accepts] using h
    obtain (henabled | hidle) | hvend := hst
    · have hrule := cmdSessionComplete_enabled cfg henabled
      exact ⟨_, _, _, hrule, repeats_of_ne_idle (by simp [henabled]) hrule⟩
    · exact ⟨_, _, _, cmdSessionComplete_open cfg (.inl hidle), owingEnd_repeats cfg i⟩
    · exact ⟨_, _, _, cmdSessionComplete_open cfg (.inr hvend), owingEnd_repeats cfg i⟩
  | cashSale =>
    have hst : i.st ≠ .inactive := by simpa [accepts] using h
    exact ⟨_, _, _, cmdCashSale_accepted cfg hst, [], cmdCashSale_accepted cfg (by simpa using hst)⟩
  | readerDisable =>
    have hst : i.st = .disabled ∨ i.st = .enabled := by simpa [accepts] using h
    refine ⟨_, _, _, cmdReaderDisable_accepted cfg hst, repeats_of_state (setState_st i .disabled) fun j h => ?_⟩
    have hstay : setState j .disabled = j := h ▸ setState_same j
    exact (cmdReaderDisable_accepted cfg (.inl h)).trans (by rw [hstay])
  | readerEnable =>
    have hst : i.st = .disabled ∨ i.st = .enabled := by simpa [accepts] using h
    refine ⟨_, _, _, cmdReaderEnable_accepted cfg hst, repeats_of_state (setState_st i .enabled) fun j h => ?_⟩
    have hstay : setState j .enabled = j := h ▸ setState_same j
    exact (cmdReaderEnable_accepted cfg (.inr h)).trans (by rw [hstay])
  | readerCancel =>
    have hst : i.st = .disabled ∨ i.st = .enabled := by simpa [accepts] using h
    exact ⟨_, _, _, cmdReaderCancel_accepted cfg hst,
      repeats_of_ne_idle (by rcases hst with h | h <;> simp [h]) (cmdReaderCancel_accepted cfg hst)⟩
  | requestId =>
    have hst : i.st = .disabled ∨ i.st = .enabled := by simpa [accepts] using h
    have hrule := cmdRequestId_accepted cfg hst
    exact ⟨_, _, _, hrule, repeats_of_ne_idle (by rcases hst with h | h <;> simp [h]) hrule⟩

/-- The table does not read the flag a refusal sets (rules R212, R214). -/
theorem accepts_oos (r : Instr) (i : Instance) :
    accepts r { i with pend := { i.pend with oos := true } } = accepts r i := by
  cases r <;> rfl

/-- A request but POLL, taken again from the session it left, is answered alike and leaves that session (rules R210, R216). -/
theorem restartIdle_repeated (hr : r ≠ .poll) (hj : j = restartIdle r.kind (ruleOf r cfg i)) :
    (ruleOf r cfg j).resp = (ruleOf r cfg i).resp ∧ restartIdle r.kind (ruleOf r cfg j) = j := by
  have hkind : r.kind ≠ .poll := by cases r <;> simp_all [Instr.kind]
  rcases h : accepts r i with _ | _
  · have hrule := ruleOf_refused cfg h
    have hafter : j = (oos r.kind i).inst := by rw [hj, hrule, restartIdle_refused rfl]
    have hagain : ruleOf r cfg j = oos r.kind j := ruleOf_refused cfg (by rw [hafter]; exact (accepts_oos r i).trans h)
    rw [hagain, hrule, restartIdle_refused rfl, hafter]
    exact ⟨rfl, rfl⟩
  · obtain ⟨j', resp, errs, hrule, errs', hagain⟩ := ruleOf_accepted hr h
    have hafter : j = windowRestarted j' := by rw [hj, hrule, restartIdle_accepted hkind rfl]
    rw [hafter, hagain, hrule, restartIdle_accepted hkind rfl]
    exact ⟨rfl, windowRestarted_idempotent j'⟩

end

/-- Settles O29: the second request finds the session the first left, answers alike and leaves it. -/
theorem retransmissionChangesNothing : Obligations.RetransmissionChangesNothing := by
  intro r s t a f hr hslot howned h
  obtain ⟨i, hi⟩ := Option.ne_none_iff_exists'.1 howned
  obtain rfl : s.answer a r.kind (ruleOf r s.cfg i) = t := by simpa [exec_owned r hslot hi] using h
  obtain ⟨hresp, hsame⟩ := restartIdle_repeated (cfg := s.cfg) (i := i) hr rfl
  have hj : (s.answer a r.kind (ruleOf r s.cfg i)).instanceAt a = some (restartIdle r.kind (ruleOf r s.cfg i)) := by
    rw [State.instanceAt] at hi
    simp [State.instanceAt, hi]
  refine ⟨_, exec_owned r hslot hj, congrArg some hresp, ?_⟩
  exact (congrArg (updateAt a · _) hsame).trans (updateAt_same hj)

/-! ### What a request leaves -/

/-- The restart of the idle window leaves the queued call (rule R210). -/
@[simp] theorem restartIdle_inq (k : Kind) (r : CmdResult) : (restartIdle k r).inq = r.inst.inq := by
  unfold restartIdle; split <;> rfl

/-- The drain leaves the queued call (rules R160 to R168). -/
theorem drain_inq (cfg : Config) (i : Instance) : (drain cfg i).inst.inq = i.inq := by
  obtain ⟨-, hd⟩ | ⟨-, -, hd⟩ | ⟨-, -, -, hd⟩ | ⟨-, -, -, -, hd⟩ | ⟨-, -, -, -, -, hd⟩ | ⟨-, -, -, -, -, -, hd⟩ |
    ⟨-, -, -, -, -, -, -, hd⟩ | ⟨-, hd⟩ := drain_cases cfg i <;> rw [hd]
  · unfold drainOos; split <;> rfl
  · rfl
  · rfl
  · simp [drainVDen, accept]
  · simp [drainSEnd, notify]
  · simp [drainSBeg, accept]
  · rfl
  · rfl

/-- Every command leaves the queued call (rules R210, R224). -/
theorem ruleOf_inq (r : Instr) (cfg : Config) (i : Instance) : (ruleOf r cfg i).inst.inq = i.inq := by
  cases r with
  | reset => simp only [ruleOf, cmdReset]; split <;> rfl
  | configData => simp only [ruleOf, cmdConfigData]; split <;> simp [accept, oos]
  | maxMinPrices => simp only [ruleOf, cmdMaxMinPrices]; split <;> rfl
  | poll => exact drain_inq cfg i
  | vendRequest p n => simp only [ruleOf, cmdVendRequest, beginVend]; split_ifs <;> simp [accept, oos]
  | vendCancel => simp only [ruleOf, cmdVendCancel]; split_ifs <;> rfl
  | vendSuccess => simp only [ruleOf, cmdVendSuccess]; split_ifs <;> simp [accept, oos, notify]
  | vendFailure => simp only [ruleOf, cmdVendFailure]; split <;> simp [accept, oos]
  | sessionComplete => simp only [ruleOf, cmdSessionComplete, owingEnd]; split <;> simp [accept, oos]
  | cashSale => simp only [ruleOf, cmdCashSale]; split <;> rfl
  | readerDisable => simp only [ruleOf, cmdReaderDisable]; split <;> simp [accept, oos]
  | readerEnable => simp only [ruleOf, cmdReaderEnable]; split <;> simp [accept, oos]
  | readerCancel => simp only [ruleOf, cmdReaderCancel]; split <;> rfl
  | requestId => simp only [ruleOf, cmdRequestId]; split <;> rfl

/-- Settles O27: a request waits, discards the frame, or writes the addressed session, keeping its queued call. -/
theorem requestsChangeOnlyTheAddressedSession : Obligations.RequestsChangeOnlyTheAddressedSession := by
  intro r s
  obtain ⟨hslot, hexec⟩ | ⟨a, f, hslot, -, hexec⟩ | ⟨a, f, i, hslot, hi, hexec⟩ := exec_cases r s <;>
    refine ⟨_, hexec, ?_⟩
  · exact ⟨by rw [← hslot], List.prefix_rfl, rfl, fun _ _ => rfl, fun _ => rfl⟩
  · exact ⟨rfl, List.prefix_append .., rfl, fun _ _ => rfl, fun _ => rfl⟩
  · refine ⟨rfl, List.prefix_append .., updateAt_keys .., fun b hb => ?others, fun b => ?calls⟩
    case others =>
      have hba : b ≠ a := fun hba => hb f (hba ▸ hslot)
      exact lookupAt_updateAt_ne hba _ _
    case calls =>
      rw [State.instanceAt] at hi
      rw [State.instanceAt, State.answer_inst, lookupAt_updateAt]
      split
      · rename_i hba
        simp [hba, State.instanceAt, hi, ruleOf_inq]
      · rfl

end Sys2Proof.Machine
end

section
/-! The frame step, the host's moves and the session timers of a PERIPHERAL, each as the step it is offered as (rules R210, R217
to R224, R227 to R229), and the host read of a MASTER (rule R271). -/

namespace Sys2Proof.Machine

/-! ### The frame step -/

/-- Settles O25: the guard of the frame step holds, and the fetched frame decodes. -/
theorem frameStepRunsTheDecodedRequest : Obligations.FrameStepRunsTheDecodedRequest := by
  intro s a f r rest h hslot hdecode
  rw [step_frame h (by simp [hslot])]
  simp [frameStep, State.fetch, hslot, hdecode]

/-! ### Offered moves -/

section
variable {s : State} {mv : Move} {rest : List Move}

/-- An offered move of a PERIPHERAL, other than the frame step, whose guard holds (rules R15, R230). -/
theorem step_peripheral (h : Offered s .peripheral mv rest) (hmv : mv ≠ .frame)
    (hguard : peripheralEnabled { s with agenda := rest } mv = true) :
    step s = .next (performMove { s with agenda := rest } mv) := by
  have ⟨_, hrole, _⟩ := h
  rw [step_of_offered h, takeMove_enabled (by simpa [enabled, hrole] using hguard) hmv]

/-- An offered move of a PERIPHERAL whose guard does not hold (notes/assumptions/10.md). -/
theorem step_peripheral_disabled (h : Offered s .peripheral mv rest)
    (hguard : peripheralEnabled { s with agenda := rest } mv ≠ true) : step s = .next { s with agenda := rest } := by
  have ⟨_, hrole, _⟩ := h
  rw [step_of_offered h, takeMove_disabled (by simpa [enabled, hrole] using hguard)]

end

/-! ### Host calls and host reads -/

/-- A host call on an owned address (rule R219). -/
theorem sendCall_eq {s : State} {a : Addr5} {i : Instance} (c : InboundCall) (hi : s.instanceAt a = some i) :
    sendCall s a c =
      if i.inq = none then
        { s with inst := updateAt a { i with inq := some c } s.inst, results := s.results ++ [(a, .accepted)] }
      else { s with log := s.log ++ [.e5 a c], results := s.results ++ [(a, .dropped)] } := by
  rcases hq : i.inq with _ | d <;> simp [sendCall, hi, hq, State.putInstance, State.raise, State.answerHost]

/-- Settles O45: a host call has no guard but the address, and the queue decides. -/
theorem hostCallIsQueuedOrDropped : Obligations.HostCallIsQueuedOrDropped := by
  intro s a i c rest h hi
  have hguard : peripheralEnabled { s with agenda := rest } (.hostCall a c) = true :=
    (instanceIs_iff ..).2 ⟨i, hi, rfl⟩
  rw [step_peripheral h nofun hguard, performMove, sendCall_eq (s := { s with agenda := rest }) c hi]

/-- A host read of a waiting notification (rule R227). -/
theorem readNotification_eq {s : State} {a : Addr5} {i : Instance} {n : Notification} (hi : s.instanceAt a = some i)
    (hn : i.outSlot = some n) :
    readNotification s a =
      { s with inst := updateAt a { i with outSlot := none } s.inst, seen := s.seen ++ [.peripheral a n] } := by
  simp [readNotification, hi, hn, State.putInstance, State.observe]

/-- A host read of a MASTER's waiting notification (rule R271). -/
theorem readMasterNotification_eq {s : State} {a : Addr5} {m : MInstance} {n : MNotification}
    (hm : s.mirrorAt a = some m) (hn : m.outSlot = some n) :
    readMasterNotification s a =
      { s with mirror := updateAt a { m with outSlot := none } s.mirror, seen := s.seen ++ [.master a n] } := by
  simp [readMasterNotification, hm, hn, State.putMirror, State.observe]

/-- Settles O48: the notification enables the read, which empties the slot, at a PERIPHERAL and at a MASTER. -/
theorem hostReadsANotificationOnce : Obligations.HostReadsANotificationOnce := by
  intro s a rest
  refine ⟨fun i n h hi hn => ?peripheral, fun m n h hm hn => ?master⟩ <;> have ⟨_, hrole, _⟩ := h
  case peripheral =>
    have hguard : peripheralEnabled { s with agenda := rest } (.hostRead a) = true :=
      (instanceIs_iff ..).2 ⟨i, hi, by simp [hn]⟩
    rw [step_peripheral h nofun hguard, performMove, hostRead, hrole]
    exact congrArg Host.Outcome.next (readNotification_eq (s := { s with agenda := rest }) hi hn)
  case master =>
    have hmirror : State.mirrorAt { s with agenda := rest } a = some m := hm
    have henabled : enabled { s with agenda := rest } (.hostRead a) = true := by
      simp [enabled, hrole, masterEnabled, State.mirrorIs, hmirror, hn]
    rw [step_of_offered h, takeMove_enabled henabled nofun, performMove, hostRead, hrole]
    exact congrArg Host.Outcome.next (readMasterNotification_eq hmirror hn)

/-! ### The session timers -/

/-- The idle timeout on an owned address (rule R228). -/
theorem idleTimeout_eq {s : State} {a : Addr5} {i : Instance} (hi : s.instanceAt a = some i) :
    idleTimeout s a =
      { s with inst := updateAt a { i with pend := { i.pend with sCan := true }, idleArmed := false } s.inst } := by
  simp [idleTimeout, hi, State.putInstance]

/-- The vend timeout on an owned address (rule R229). -/
theorem vendTimeout_eq {s : State} {a : Addr5} {i : Instance} (hi : s.instanceAt a = some i) :
    vendTimeout s a =
      { s with inst := updateAt a { i with pend := { i.pend with vDen := true }, vendArmed := false } s.inst } := by
  simp [vendTimeout, hi, State.putInstance]

/-- Settles O47: the guard of either timeout is that its window runs in its state. -/
theorem sessionTimeoutsRaiseTheirFlag : Obligations.SessionTimeoutsRaiseTheirFlag := by
  intro s a i rest hi
  have hi' : State.instanceAt { s with agenda := rest } a = some i := hi
  refine ⟨fun h => ?idle, fun h => ?vend⟩
  case idle =>
    have hguard : peripheralEnabled { s with agenda := rest } (.idleTimeout a) = true ↔
        i.idleArmed = true ∧ i.st = .idle := by
      simp [peripheralEnabled, State.instanceIs, hi']
    split_ifs with hruns
    · rw [step_peripheral h nofun (hguard.2 hruns), performMove, idleTimeout_eq hi']
    · exact step_peripheral_disabled h (mt hguard.1 hruns)
  case vend =>
    have hguard : peripheralEnabled { s with agenda := rest } (.vendTimeout a) = true ↔
        i.vendArmed = true ∧ i.st = .vend := by
      simp [peripheralEnabled, State.instanceIs, hi']
    split_ifs with hruns
    · rw [step_peripheral h nofun (hguard.2 hruns), performMove, vendTimeout_eq hi']
    · exact step_peripheral_disabled h (mt hguard.1 hruns)

/-! ### The consume step -/

/-- The consume step on a queued call (rule R224). -/
theorem consumeCall_eq {s : State} {a : Addr5} {i : Instance} {c : InboundCall} (hi : s.instanceAt a = some i)
    (hq : i.inq = some c) :
    consumeCall s a =
      { s with
        inst := updateAt a (applyCall c { i with inq := none }).1 s.inst
        log := s.log ++ (applyCall c { i with inq := none }).2 } := by
  simp [consumeCall, hi, hq, State.putInstance, State.raise]

/-- Settles O46: the consume step applies the queued call, whose guard decides between its effect and E10. -/
theorem consumeAppliesTheCall : Obligations.ConsumeAppliesTheCall := by
  intro s a i c rest h hi hq taken undecided applied ignored
  have hguard : peripheralEnabled { s with agenda := rest } (.consume a) = true :=
    (instanceIs_iff ..).2 ⟨i, hi, by simp [hq]⟩
  have hundecided : vendUndecided { i with inq := none } = true ↔ undecided := vendUndecided_iff _
  rw [step_peripheral h nofun hguard, performMove, consumeCall_eq (s := { s with agenda := rest }) hi hq]
  cases c with
  | requestSession f =>
    simp only [applyCall, applyRequestSession]
    split_ifs <;> simp [applied, ignored, taken]
  | approveVend =>
    simp only [applyCall, applyApproveVend, hundecided]
    split_ifs <;> simp [applied, ignored, taken]
  | denyVend =>
    simp only [applyCall, applyDenyVend, hundecided]
    split_ifs <;> simp [applied, ignored, taken]
  | cancelSession =>
    simp only [applyCall, applyCancelSession]
    split_ifs <;> simp [applied, ignored, taken]

end Sys2Proof.Machine
end

section
/-! MSEQ and its host, each as the step it is offered as: a transaction started (rules R241, R242, R272), ended without a response
(rules R253 to R255) or ended in M_IDLE whatever came (rule R243), and a host command (rule R270). -/

namespace Sys2Proof.Machine

section
variable {s : State} {a : Addr5} {m : MInstance} {mv : Move} {rest : List Move}

/-- An offered move of a MASTER whose guard holds (rules R15, R240). -/
theorem step_master (h : Offered s .master mv rest) (hguard : masterEnabled { s with agenda := rest } mv = true) :
    step s = .next (performMove { s with agenda := rest } mv) := by
  have ⟨_, hrole, _⟩ := h
  have hframe : mv ≠ .frame := by rintro rfl; simp [masterEnabled] at hguard
  rw [step_of_offered h, takeMove_enabled (by simpa [enabled, hrole] using hguard) hframe]

/-! ### Host commands -/

/-- The guard of a move on a mirror names the mirror. -/
theorem mirrorIs_iff (s : State) (a : Addr5) (p : MInstance → Bool) :
    s.mirrorIs a p = true ↔ ∃ m, s.mirrorAt a = some m ∧ p m = true := by
  rcases hm : s.mirrorAt a with _ | m <;> simp [State.mirrorIs, hm]

/-- A host command on a polled address (rule R270). -/
theorem sendHostCmd_eq (hm : s.mirrorAt a = some m) (c : HostCmd) :
    sendHostCmd s a c =
      if m.hostSlot = none then
        { s with mirror := updateAt a { m with hostSlot := some c } s.mirror, results := s.results ++ [(a, .accepted)] }
      else { s with log := s.log ++ [.e5Master a c], results := s.results ++ [(a, .dropped)] } := by
  rcases hq : m.hostSlot with _ | d <;> simp [sendHostCmd, hm, hq, State.putMirror, State.raise, State.answerHost]

/-- Settles O56: a host command has no guard but the address, and the slot decides. -/
theorem hostCommandIsQueuedOrDropped : Obligations.HostCommandIsQueuedOrDropped := by
  intro s a m c rest h hm
  have hguard : masterEnabled { s with agenda := rest } (.hostCmd a c) = true := (mirrorIs_iff ..).2 ⟨m, hm, rfl⟩
  rw [step_master h hguard, performMove, sendHostCmd_eq (s := { s with agenda := rest }) hm c]

/-! ### The request selected -/

/-- A session that owes its end sends SESSION_COMPLETE first (rule R242). -/
theorem selectRun_owed (a : Addr5) (h : m.endSt = .eOwed ∧ m.mst = .idle) :
    selectRun a m = (.sessionComplete, ⟨m, []⟩) := if_pos h

/-- With nothing owed and nothing queued a mirror in H_RUN polls (rule R242). -/
theorem selectRun_poll (a : Addr5) (h : ¬ (m.endSt = .eOwed ∧ m.mst = .idle)) (hslot : m.hostSlot = none) :
    selectRun a m = (.poll, ⟨m, []⟩) := by
  simp [selectRun, h, hslot]

/-- A queued command is sent where it applies, and removed with E10 where it does not (rules R242, R272). -/
theorem selectRun_command (a : Addr5) {c : HostCmd} (h : ¬ (m.endSt = .eOwed ∧ m.mst = .idle)) (hslot : m.hostSlot = some c) :
    selectRun a m =
      if commandApplies c m = true then (commandRequest c m.item, ⟨m, []⟩)
      else (.poll, ⟨{ m with hostSlot := none }, [.e10Master a c m.mst]⟩) := by
  simp [selectRun, h, hslot, applicable_eq_table, hostRequest_eq_table]

/-- The step that starts a transaction with the request `r` (rule R241). -/
theorem step_starts {r : Instr} {m' : MInstance} {es : List ErrorEvent} (h : Offered s .master .start rest)
    (hphase : s.phase = .mIdle) (hturn : s.turnAddress = some a) (hm : s.mirrorAt a = some m)
    (hselect : selectRequest s.cfg a m = (r, ⟨m', es⟩)) :
    step s = .next
      { s with
        agenda := rest
        mirror := updateAt a m' s.mirror
        log := s.log ++ es
        out := s.out ++ encode a r
        phase := .mAwait a r [] } := by
  have hguard : masterEnabled { s with agenda := rest } .start = true := by simp [masterEnabled, hphase]
  rw [step_master h hguard, performMove, startTransaction_eq (s := { s with agenda := rest }) hturn hm, hselect]

/-- The step that starts a transaction without an error. -/
theorem step_starts_quiet {r : Instr} (h : Offered s .master .start rest) (hphase : s.phase = .mIdle)
    (hturn : s.turnAddress = some a) (hm : s.mirrorAt a = some m) (hselect : selectRequest s.cfg a m = (r, ⟨m, []⟩)) :
    step s = .next
      { s with
        agenda := rest, mirror := updateAt a m s.mirror, out := s.out ++ encode a r, phase := .mAwait a r [] } := by
  have hstep := step_starts h hphase hturn hm hselect
  rwa [List.append_nil] at hstep

/-- Settles O49: the start step sends what `selectRequest` chooses, step by step of the handshake and in H_RUN by what is owed,
queued and applicable. -/
theorem masterStartsTheSelectedRequest : Obligations.MasterStartsTheSelectedRequest := by
  intro s a m rest h hphase hturn hm sends v id
  have hsends {r : Instr} (hselect : selectRequest s.cfg a m = (r, ⟨m, []⟩)) : step s = sends r :=
    step_starts_quiet h hphase hturn hm hselect
  rcases hhs : m.hs
  case hRun =>
    have hrun : selectRequest s.cfg a m = selectRun a m := by simp [selectRequest, hhs]
    dsimp only
    by_cases howed : m.endSt = .eOwed ∧ m.mst = .idle
    · rw [if_pos howed]
      exact hsends (hrun.trans (selectRun_owed a howed))
    rw [if_neg howed]
    rcases hslot : m.hostSlot with _ | c
    · exact hsends (hrun.trans (selectRun_poll a howed hslot))
    have hcommand := hrun.trans (selectRun_command a howed hslot)
    by_cases happ : commandApplies c m = true
    · rw [if_pos happ] at hcommand
      simpa only [happ, if_true] using hsends hcommand
    · rw [if_neg happ] at hcommand
      simpa only [if_neg happ, hhs] using step_starts h hphase hturn hm hcommand
  all_goals exact hsends (by simp only [selectRequest, hhs] <;> rfl)

/-! ### The end of a transaction -/

/-- A move leaves the turn and an open transaction, or closes it and passes the turn (rule R243). -/
theorem MoveEffect.turnAndPhase {s t : State} (h : MoveEffect s t) :
    (t.turn = s.turn ∧ (s.phase ≠ .mIdle → t.phase ≠ .mIdle)) ∨
      (s.phase ≠ .mIdle ∧ t.phase = .mIdle ∧ t.turn = (s.turn + 1) % s.cfg.addrs.length) := by
  cases h with
  | word w =>
    obtain ⟨rx, slot, es, hs, -⟩ := receiveWord_fields s w
    rw [hs]
    exact .inl ⟨rfl, id⟩
  | started _ _ => exact .inl ⟨rfl, fun _ => nofun⟩
  | collected _ _ _ => exact .inl ⟨rfl, fun _ => nofun⟩
  | @completed a req buf c before after hphase =>
    have hopen : s.phase ≠ .mIdle := by simp [hphase]
    obtain ⟨-, hs⟩ | ⟨m, -, hs⟩ := complete_cases (s.raise before) a req c <;> rw [hs] <;>
      exact .inr ⟨hopen, rfl, rfl⟩
  | _ => exact .inl ⟨rfl, id⟩

/-- Settles O57: a step waits or makes a move, and only the completion of a transaction writes the turn. -/
theorem transactionsEndWithTheNextTurn : Obligations.TransactionsEndWithTheNextTurn := by
  intro s t h
  obtain ⟨-, rfl | ⟨mv, s', ⟨-, -, rfl⟩ | ⟨rest, -, rfl⟩, hmove⟩⟩ := step_next h
  · exact .inl ⟨rfl, id⟩
  · exact (takeMove_effect hmove).turnAndPhase
  · exact (takeMove_effect hmove).turnAndPhase

/-! ### No response -/

/-- The end of a transaction without a valid response, after the errors `es` (rules R243, R253, R255). -/
theorem complete_missed_raise {r : Instr} {c : ResponseClass} (es : List ErrorEvent) (hm : s.mirrorAt a = some m)
    (hc : c = .nak ∨ c = .invalid ∨ c = .noResponse) :
    complete (s.raise es) a r c =
      { s with
        mirror := updateAt a (missed s.cfg a r m).1 s.mirror
        log := s.log ++ (es ++ (missed s.cfg a r m).2)
        turn := (s.turn + 1) % s.cfg.addrs.length
        phase := .mIdle } := by
  rw [complete_missed (s := s.raise es) r hm hc, ← List.append_assoc]
  rfl

/-- Settles O52: the classes of a miss, each with its error before those of the miss. -/
theorem missedResponsesAreCounted : Obligations.MissedResponsesAreCounted := by
  intro s a r m buf rest hphase hm ended
  refine ⟨fun h => ?timeout, fun w h hw =>
    ⟨fun hnak => ?nak, fun hbuf hack hnak => ?badLinkWord, fun hbuf hsum => ?checksum⟩⟩
  case timeout =>
    have hguard : masterEnabled { s with agenda := rest } .rspTimeout = true := by simp [masterEnabled, hphase]
    rw [step_master h hguard, performMove, responseTimeout_await (s := { s with agenda := rest }) hphase,
      complete_missed_raise (s := { s with agenda := rest }) _ hm (.inr (.inr rfl))]
  all_goals
    have hends {c : ResponseClass} {es : List ErrorEvent} (hclass : classify (buf ++ [w]) = (c, es))
        (hc : c = .nak ∨ c = .invalid ∨ c = .noResponse) : step s = ended es := by
      rw [step_rxWord_master h, receiveResponse_last (s := { s with agenda := rest }) hphase hw, hclass,
        complete_missed_raise (s := { s with agenda := rest }) es hm hc]
  case nak => exact hends (by rw [hnak, classify_one]; rfl) (.inl rfl)
  case badLinkWord =>
    refine hends ?_ (.inr (.inl rfl))
    rw [hbuf, List.nil_append, classify_one, if_neg hack, if_neg hnak]
  case checksum =>
    obtain ⟨x, y, ws, hws⟩ : ∃ x y ws, buf ++ [w] = x :: y :: ws := by
      rcases buf with _ | ⟨x, _ | ⟨y, ws⟩⟩
      · exact absurd rfl hbuf
      · exact ⟨x, w, [], rfl⟩
      · exact ⟨x, y, ws ++ [w], rfl⟩
    refine hends ?_ (.inr (.inl rfl))
    rw [hws] at hsum ⊢
    rw [classify_many, hsum]
    rfl

end

end Sys2Proof.Machine
end

section
/-! Valid responses at MSEQ (rules R250 to R269): every one is acknowledged where it is data and ends the run of misses; one
outside the table of rule R251 restarts the handshake, one in it has the effect of its rule. -/

namespace Sys2Proof.Machine

/-! ### A valid response -/

/-- An expected response ends the run of misses and has its effect (rules R250, R251). -/
theorem completeMirror_expected {cfg : Config} {r : Instr} {m : MInstance} {c : ResponseClass} (a : Addr5)
    (hc : c = .ack ∨ ∃ bytes, c = .data bytes) (hexp : expectedAnswer r m c = true) :
    completeMirror cfg a r c m = responseEffect cfg a r { m with misses := 0 } c := by
  rw [completeMirror_valid hc, expectedResponse_eq_table, if_pos hexp]

/-- The master acknowledges a valid response exactly where it is data (rule R273). -/
theorem masterAck_valid {c : ResponseClass} (hc : c = .ack ∨ ∃ bytes, c = .data bytes) :
    masterAck c = if c = .ack then [] else [0x000] := by
  obtain rfl | ⟨bytes, rfl⟩ := hc <;> rfl

section
variable {s : State} {a : Addr5} {r : Instr} {m m' : MInstance} {buf : List Word9} {w : Word9} {c : ResponseClass}
  {rest : List Move} {es : List ErrorEvent} (h : Offered s .master (.rxWord w) rest) (hphase : s.phase = .mAwait a r buf)
  (hw : modeOf w = true) (hm : s.mirrorAt a = some m)
include h hphase hw hm

/-- The step of the word that ends a response of the class `c` (rules R130, R250). -/
theorem step_ended (hclass : classify (buf ++ [w]) = (c, [])) (hmirror : completeMirror s.cfg a r c m = ⟨m', es⟩) :
    step s = .next
      { s with
        agenda := rest
        mirror := updateAt a m' s.mirror
        out := s.out ++ masterAck c
        log := s.log ++ es
        turn := (s.turn + 1) % s.cfg.addrs.length
        phase := .mIdle } := by
  have hraise : State.raise { s with agenda := rest } [] = { s with agenda := rest } := by simp [State.raise]
  rw [step_rxWord_master h, receiveResponse_last (s := { s with agenda := rest }) hphase hw, hclass, hraise,
    complete_eq (s := { s with agenda := rest }) r c hm, hmirror]

/-- The step of the word that ends an expected response: its effect, with the run of misses ended (rules R250, R251). -/
theorem step_expected (hclass : classify (buf ++ [w]) = (c, [])) (hc : c = .ack ∨ ∃ bytes, c = .data bytes)
    (hexp : expectedAnswer r m c = true) (heffect : responseEffect s.cfg a r { m with misses := 0 } c = ⟨m', es⟩) :
    step s = .next
      { s with
        agenda := rest
        mirror := updateAt a m' s.mirror
        out := s.out ++ masterAck c
        log := s.log ++ es
        turn := (s.turn + 1) % s.cfg.addrs.length
        phase := .mIdle } := by
  exact step_ended h hphase hw hm hclass ((completeMirror_expected a hc hexp).trans heffect)

/-- The step of the word that ends an unexpected response (rules R251, R252). -/
theorem step_unexpected (hclass : classify (buf ++ [w]) = (c, [])) (hc : c = .ack ∨ ∃ bytes, c = .data bytes)
    (hexp : expectedAnswer r m c = false) :
    step s = .next
      { s with
        agenda := rest
        mirror := updateAt a (restartedAt s.cfg m .hReset) s.mirror
        out := s.out ++ masterAck c
        log := s.log ++ [.e8 a r c]
        turn := (s.turn + 1) % s.cfg.addrs.length
        phase := .mIdle } := by
  refine step_ended h hphase hw hm hclass ?_
  rw [completeMirror_valid hc, expectedResponse_eq_table, hexp]
  rfl

end

/-! ### What every expected response does -/

/-- The end of a host command leaves the count of misses (rule R262). -/
theorem endHostCmd_misses (req : Instr) (m : MInstance) : (endHostCmd req m).misses = m.misses := by
  obtain ⟨host, out, h⟩ := endHostCmd_sameButSlots req m
  rw [h]

section
variable (cfg : Config) (a : Addr5) {m : MInstance} (hm : m.misses = 0)

/-- None of the errors is E8 (rule R251). -/
def NoE8 (es : List ErrorEvent) : Prop := ∀ b q k, ErrorEvent.e8 b q k ∉ es

theorem noE8_nil : NoE8 [] := by simp [NoE8]

theorem noE8_notifyMaster (m : MInstance) (n : MNotification) : NoE8 (notifyMaster m n).errs := by
  rcases h : m.outSlot with _ | o <;> simp [notifyMaster, overwriteEvent, h, NoE8]

include hm

/-- An event leaves no miss counted and raises no E8 (rules R263 to R268). -/
theorem eventEffect_keeps (e : PollEvent) : (eventEffect cfg a m e).m.misses = 0 ∧ NoE8 (eventEffect cfg a m e).errs := by
  cases e with
  | justReset => exact ⟨rfl, noE8_nil⟩
  | outOfSequence => exact ⟨rfl, by simp [eventEffect, NoE8]⟩
  | beginSession | vendApproved | vendDenied | endSession | cancelRequest => exact ⟨hm, noE8_notifyMaster _ _⟩

theorem pollEffect_keeps (c : ResponseClass) : (pollEffect cfg a m c).m.misses = 0 ∧ NoE8 (pollEffect cfg a m c).errs := by
  unfold pollEffect
  split
  · split <;> exact ⟨hm, noE8_nil⟩
  · split
    · split
      · exact eventEffect_keeps cfg a hm _
      · exact ⟨hm, noE8_nil⟩
    · exact ⟨hm, noE8_nil⟩
  · exact ⟨hm, noE8_nil⟩

/-- The effect of a response leaves no miss counted and raises no E8 (rules R250, R256 to R269). -/
theorem responseEffect_keeps (r : Instr) (c : ResponseClass) :
    (responseEffect cfg a r m c).m.misses = 0 ∧ NoE8 (responseEffect cfg a r m c).errs := by
  cases r with
  | poll => exact pollEffect_keeps cfg a hm c
  | configData => cases c <;> exact ⟨hm, noE8_nil⟩
  | readerEnable =>
    simp only [responseEffect]
    split
    · exact ⟨hm, noE8_nil⟩
    · exact ⟨(endHostCmd_misses _ _).trans hm, noE8_nil⟩
  | reset | maxMinPrices | requestId | vendCancel => exact ⟨hm, noE8_nil⟩
  | vendRequest | vendSuccess | vendFailure | sessionComplete | cashSale | readerDisable | readerCancel =>
    exact ⟨(endHostCmd_misses _ _).trans hm, noE8_nil⟩

end

/-- Settles O51: the table of rule R251 decides between the restart and the effect of the response. -/
theorem unexpectedResponseRestartsTheHandshake : Obligations.UnexpectedResponseRestartsTheHandshake := by
  intro s a r m buf w c rest h hphase hw hclass hc hm ack
  have hack : masterAck c = ack := masterAck_valid hc
  refine ⟨fun hexp => ?unexpected, fun hexp => ?expected⟩
  case unexpected =>
    rw [← hack]
    exact step_unexpected h hphase hw hm hclass hc hexp
  case expected =>
    obtain ⟨hmisses, hnoE8⟩ := responseEffect_keeps s.cfg a (m := { m with misses := 0 }) rfl r c
    rw [← hack]
    exact ⟨_, _, hmisses, hnoE8, step_expected h hphase hw hm hclass hc hexp rfl⟩

/-! ### Acknowledgements and data responses -/

section
variable {s : State} {a : Addr5} {r : Instr} {m m' : MInstance} {buf : List Word9} {w : Word9} {rest : List Move}
  {es : List ErrorEvent} (h : Offered s .master (.rxWord w) rest) (hphase : s.phase = .mAwait a r buf)
  (hw : modeOf w = true) (hm : s.mirrorAt a = some m)
include h hphase hw hm

/-- The step of an expected ACK, which raises nothing and is not answered (rules R251, R273). -/
theorem step_acknowledged (hack : buf ++ [w] = [0x100]) (hexp : expectedAck r m = true)
    (heffect : responseEffect s.cfg a r { m with misses := 0 } .ack = ⟨m', []⟩) :
    step s = .next
      { s with
        agenda := rest
        mirror := updateAt a m' s.mirror
        out := s.out ++ []
        turn := (s.turn + 1) % s.cfg.addrs.length
        phase := .mIdle } := by
  have hclass : classify (buf ++ [w]) = (.ack, []) := by rw [hack, classify_one]; rfl
  have hstep := step_expected h hphase hw hm hclass (.inl rfl) hexp heffect
  rwa [List.append_nil (as := s.log)] at hstep

/-- The step of an expected data response (rules R251, R273). -/
theorem step_informed {xs : List Byte} (hne : xs ≠ []) (hdata : buf ++ [w] = frameP xs) (hexp : expectedData r m xs = true)
    (heffect : responseEffect s.cfg a r { m with misses := 0 } (.data xs) = ⟨m', es⟩) :
    step s = .next
      { s with
        agenda := rest
        mirror := updateAt a m' s.mirror
        log := s.log ++ es
        out := s.out ++ [0x000]
        turn := (s.turn + 1) % s.cfg.addrs.length
        phase := .mIdle } := by
  have hclass : classify (buf ++ [w]) = (.data xs, []) := by rw [hdata, classify_frameP hne]
  exact step_expected h hphase hw hm hclass (.inr ⟨xs, rfl⟩) hexp heffect

/-- The step of an expected data response that raises nothing. -/
theorem step_informed_quiet {xs : List Byte} (hne : xs ≠ []) (hdata : buf ++ [w] = frameP xs)
    (hexp : expectedData r m xs = true)
    (heffect : responseEffect s.cfg a r { m with misses := 0 } (.data xs) = ⟨m', []⟩) :
    step s = .next
      { s with
        agenda := rest
        mirror := updateAt a m' s.mirror
        out := s.out ++ [0x000]
        turn := (s.turn + 1) % s.cfg.addrs.length
        phase := .mIdle } := by
  have hstep := step_informed h hphase hw hm hne hdata hexp heffect
  rwa [List.append_nil] at hstep

end

/-! ### The handshake -/

/-- Settles O53: the row of rule R251 and the effect of each handshake answer. -/
theorem handshakeAnswersAdvanceTheMirror : Obligations.HandshakeAnswersAdvanceTheMirror := by
  intro s a r m buf w rest h hphase hw hm ended
  have hjustReset : [0x000, 0x100] = frameP [0x00] := by decide
  refine ⟨?reset, ?waiting, ?justReset, ?capabilities, ?prices, ?identification, ?enable⟩
  case reset =>
    rintro rfl hack
    exact step_acknowledged h hphase hw hm hack rfl rfl
  case waiting =>
    rintro rfl hhs hack
    exact step_acknowledged h hphase hw hm hack (by simp [expectedAck, hhs]) (by simp [responseEffect, pollEffect, hhs])
  case justReset =>
    rintro rfl hhs hdata
    exact step_informed_quiet h hphase hw hm (by simp) (hdata.trans hjustReset) (by simp [expectedData, hhs])
      (by simp [responseEffect, pollEffect, hhs])
  case capabilities =>
    rintro fl c1 c0 scale dec tmo opt p1 p2 p3 p4 rfl hdata
    exact step_informed_quiet h hphase hw hm (by simp) hdata (by simp [expectedData]) rfl
  case prices =>
    rintro mx mn rfl hack
    exact step_acknowledged h hphase hw hm hack rfl rfl
  case identification =>
    rintro p1 p2 p3 p4 record rfl hlen hdata
    exact step_informed_quiet h hphase hw hm (by simp) hdata (by simp [expectedData, hlen]) rfl
  case enable =>
    rintro rfl hhs hack
    exact step_acknowledged h hphase hw hm hack rfl (by simp [responseEffect, hhs])

/-! ### Events reported to a POLL -/

/-- The table of rule R251 expects the response of an event in the mirror states of that event. -/
theorem expectedData_event {m : MInstance} {xs : List Byte} {e : PollEvent} (hrun : m.hs = .hRun)
    (hevent : pollEvent xs = some e) (hexp : eventExpected m e = true) : expectedData .poll m xs = true := by
  calc expectedData .poll m xs = pollExpected m (.data xs) := (pollExpected_eq_table m (.data xs)).symm
    _ = true := by simpa [pollExpected, hrun, hevent] using hexp

/-- The effect of the response of an event is that of the event (rules R263 to R268). -/
theorem responseEffect_event {m : MInstance} {xs : List Byte} {e : PollEvent} (cfg : Config) (a : Addr5) (hrun : m.hs = .hRun)
    (hevent : pollEvent xs = some e) :
    responseEffect cfg a .poll { m with misses := 0 } (.data xs) = eventEffect cfg a { m with misses := 0 } e := by
  simp [responseEffect, pollEffect, hrun, hevent]

/-- The step of an event a POLL in H_RUN reports and the mirror expects (rules R251, R263 to R268). -/
theorem step_event {s : State} {a : Addr5} {m m' : MInstance} {buf : List Word9} {w : Word9} {rest : List Move}
    {es : List ErrorEvent} {xs : List Byte} {e : PollEvent} (h : Offered s .master (.rxWord w) rest)
    (hphase : s.phase = .mAwait a .poll buf) (hw : modeOf w = true) (hm : s.mirrorAt a = some m) (hrun : m.hs = .hRun)
    (hdata : buf ++ [w] = frameP xs) (hevent : pollEvent xs = some e) (hexp : eventExpected m e = true)
    (heffect : eventEffect s.cfg a { m with misses := 0 } e = ⟨m', es⟩) :
    step s = .next
      { s with
        agenda := rest
        mirror := updateAt a m' s.mirror
        log := s.log ++ es
        out := s.out ++ [0x000]
        turn := (s.turn + 1) % s.cfg.addrs.length
        phase := .mIdle } := by
  have hne : xs ≠ [] := by rintro rfl; simp [pollEvent] at hevent
  exact step_informed h hphase hw hm hne hdata (expectedData_event hrun hevent hexp)
    ((responseEffect_event s.cfg a hrun hevent).trans heffect)

/-- Settles O54: the event of each response, the state it is expected in and its effect. -/
theorem pollEventsMoveTheMirror : Obligations.PollEventsMoveTheMirror := by
  intro s a m buf w b0 b1 rest h hphase hw hm hrun ended lost restarted
  have hlost : overwriteEvent m.outSlot .outSlot = lost := overwriteEvent_eq ..
  have hends {xs : List Byte} {e : PollEvent} {m' : MInstance} {es : List ErrorEvent} (hdata : buf ++ [w] = frameP xs)
      (hevent : pollEvent xs = some e) (hexp : eventExpected m e = true)
      (heffect : eventEffect s.cfg a { m with misses := 0 } e = ⟨{ m' with misses := 0 }, es⟩) :
      step s = ended m' es [0x000] := step_event h hphase hw hm hrun hdata hevent hexp heffect
  refine ⟨fun hack => ?nothing, fun hdata henabled => ?beginSession, fun hdata hvend happ => ?approved,
    fun hdata hvend happ => ?denied, fun hdata hidle => ?ended, fun hdata hidle => ?cancel, fun hdata => ?outOfSequence,
    fun hdata => ?justReset⟩
  case nothing =>
    have hstep := step_acknowledged h hphase hw hm hack (by simp [expectedAck, hrun])
      (show responseEffect s.cfg a .poll { m with misses := 0 } .ack = ⟨{ m with misses := 0 }, []⟩ by
        simp [responseEffect, pollEffect, hrun])
    simpa [ended] using hstep
  case beginSession =>
    exact hends (e := .beginSession (be16 b0 b1)) hdata (by simp [pollEvent]) (by simp [eventExpected, henabled])
      (by rw [← hlost]; rfl)
  case approved =>
    exact hends (e := .vendApproved (be16 b0 b1)) hdata (by simp [pollEvent]) (by simp [eventExpected, hvend, happ])
      (by rw [← hlost]; rfl)
  case denied => exact hends (e := .vendDenied) hdata rfl (by simp [eventExpected, hvend, happ]) (by rw [← hlost]; rfl)
  case ended => exact hends (e := .endSession) hdata rfl (by simp [eventExpected, hidle]) (by rw [← hlost]; rfl)
  case cancel => exact hends (e := .cancelRequest) hdata rfl (by simp [eventExpected, hidle]) (by rw [← hlost]; rfl)
  case outOfSequence => exact hends (e := .outOfSequence) hdata rfl rfl rfl
  case justReset => exact hends (e := .justReset) hdata rfl rfl rfl

/-! ### Host commands answered -/

/-- What is left in the host slot once `req` is answered (rule R262). -/
def slotAfter (req : Instr) (item : U16) : Option HostCmd → Option HostCmd
  | none => none
  | some c => if commandRequest c item = req then none else some c

/-- In H_RUN the host slot is emptied exactly where its command built the request (rules R262, R272). -/
theorem endHostCmd_running {m : MInstance} (req : Instr) (hrun : m.hs = .hRun) :
    endHostCmd req m = { m with hostSlot := slotAfter req m.item m.hostSlot } := by
  rcases hslot : m.hostSlot with _ | c
  · have hsame : endHostCmd req m = m := by simp [endHostCmd, hslot]
    rw [hsame, slotAfter, ← hslot]
  · by_cases hbuilt : commandRequest c m.item = req
    · simp [endHostCmd, hslot, slotAfter, hrun, hostRequest_eq_table, hbuilt]
    · have hsame : endHostCmd req m = m := by simp [endHostCmd, hslot, hostRequest_eq_table, hbuilt]
      rw [hsame, slotAfter, if_neg hbuilt, ← hslot]

/-- The command of a VEND_REQUEST carries its own item, so the item the mirror takes over does not matter (rule R272). -/
theorem slotAfter_vendRequest (p n item item' : U16) (slot : Option HostCmd) :
    slotAfter (.vendRequest p n) item slot = slotAfter (.vendRequest p n) item' slot := by
  rcases slot with _ | _ | ok | _ | _ | _ | _ | _
  case some.vendOutcome => cases ok <;> rfl
  all_goals rfl

/-- Settles O55: the row of each request, with the slot its command leaves. -/
theorem acknowledgedHostCommandsMoveTheMirror : Obligations.AcknowledgedHostCommandsMoveTheMirror := by
  intro s a r m buf w rest h hphase hw hm hrun slot ended
  have hslot : slot = slotAfter r m.item m.hostSlot := rfl
  have hcancelled : [0x008, 0x108] = frameP [0x08] := by decide
  have hends {x : MInstance} (hack : buf ++ [w] = [0x100]) (hexp : expectedAck r m = true) (hx : x.hs = .hRun)
      (heffect : responseEffect s.cfg a r { m with misses := 0 } .ack = ⟨endHostCmd r { x with misses := 0 }, []⟩)
      (hkept : slotAfter r x.item x.hostSlot = slot) : step s = ended x [] := by
    rw [endHostCmd_running (m := { x with misses := 0 }) r hx, hkept] at heffect
    exact step_acknowledged h hphase hw hm hack hexp heffect
  refine ⟨fun hack =>
    ⟨?vendRequest, ?vendSuccess, ?vendFailure, ?sessionComplete, ?cashSale, ?readerDisable, ?readerEnable⟩, ?readerCancel⟩
  case vendRequest =>
    rintro p n rfl
    exact hends hack rfl hrun rfl ((slotAfter_vendRequest ..).trans hslot.symm)
  case vendSuccess =>
    rintro n rfl
    exact hends hack rfl hrun rfl hslot.symm
  case cashSale =>
    rintro p n rfl
    exact hends hack rfl hrun rfl hslot.symm
  case readerEnable =>
    rintro rfl
    exact hends hack rfl hrun (by simp [responseEffect, hrun]) hslot.symm
  case vendFailure | sessionComplete | readerDisable =>
    rintro rfl
    exact hends hack rfl hrun rfl hslot.symm
  case readerCancel =>
    rintro hdata rfl
    refine step_informed_quiet h hphase hw hm (by simp) (hdata.trans hcancelled) rfl ?_
    rw [hslot, ← endHostCmd_running (m := { m with misses := 0 }) .readerCancel hrun]
    rfl

end Sys2Proof.Machine
end

section
/-! The link between a mirror and a session (rule R274): what it and an expected answer read, and so which moves of either host
leave them. -/

namespace Sys2Proof.Machine

/-! ### Slots of a mirror -/

theorem SameButSlots.symm {m m' : MInstance} (h : SameButSlots m m') : SameButSlots m' m := by
  obtain ⟨host, out, rfl⟩ := h
  exact ⟨m.hostSlot, m.outSlot, rfl⟩

theorem SameButSlots.trans {m m' m'' : MInstance} (h : SameButSlots m m') (h' : SameButSlots m' m'') :
    SameButSlots m m'' := by
  obtain ⟨host, out, rfl⟩ := h
  obtain ⟨host', out', rfl⟩ := h'
  exact ⟨host', out', rfl⟩

theorem SameButSlots.hs {m m' : MInstance} (h : SameButSlots m m') : m'.hs = m.hs := by
  obtain ⟨host, out, rfl⟩ := h
  rfl

/-- The end of a run of misses leaves the slots alone (rule R250). -/
theorem SameButSlots.missesCleared {m m' : MInstance} (h : SameButSlots m m') :
    SameButSlots { m with misses := 0 } { m' with misses := 0 } := by
  obtain ⟨host, out, rfl⟩ := h
  exact ⟨host, out, rfl⟩

/-- The end of a host command reads and writes slots only (rule R262). -/
theorem SameButSlots.endHostCmd {m m' : MInstance} (h : SameButSlots m m') (req : Instr) :
    SameButSlots (endHostCmd req m) (endHostCmd req m') :=
  ((endHostCmd_sameButSlots req m).symm.trans h).trans (endHostCmd_sameButSlots req m')

/-- The effect of an event on all but the slots does not read them (rules R263 to R268). -/
theorem SameButSlots.eventEffect {m m' : MInstance} (h : SameButSlots m m') (cfg : Config) (a : Addr5) (e : PollEvent) :
    SameButSlots (eventEffect cfg a m e).m (eventEffect cfg a m' e).m := by
  obtain ⟨host, out, rfl⟩ := h
  cases e <;> exact ⟨_, _, rfl⟩

/-- The effect of a response to a POLL on all but the slots does not read them (rules R258, R263 to R269). -/
theorem SameButSlots.pollEffect {m m' : MInstance} (h : SameButSlots m m') (cfg : Config) (a : Addr5) (c : ResponseClass) :
    SameButSlots (pollEffect cfg a m c).m (pollEffect cfg a m' c).m := by
  obtain ⟨host, out, hm'⟩ := id h
  simp only [Machine.pollEffect, h.hs]
  split
  · split
    · subst hm'; exact ⟨_, _, rfl⟩
    · exact h
  · split
    · split
      · exact h.eventEffect cfg a _
      · exact h
    · exact h
  · exact h

/-- The effect of a response on all but the slots does not read them (rules R256 to R269). -/
theorem SameButSlots.responseEffect {m m' : MInstance} (h : SameButSlots m m') (cfg : Config) (a : Addr5) (req : Instr)
    (c : ResponseClass) : SameButSlots (responseEffect cfg a req m c).m (responseEffect cfg a req m' c).m := by
  obtain ⟨host, out, hm'⟩ := id h
  cases req with
  | poll => exact h.pollEffect cfg a c
  | configData => cases c <;> subst hm' <;> exact ⟨_, _, rfl⟩
  | readerEnable =>
    simp only [Machine.responseEffect, h.hs]
    split
    · subst hm'; exact ⟨_, _, rfl⟩
    · exact SameButSlots.endHostCmd (by subst hm'; exact ⟨_, _, rfl⟩) _
  | reset | maxMinPrices | requestId | vendCancel => subst hm'; exact ⟨_, _, rfl⟩
  | vendRequest | vendSuccess | vendFailure | sessionComplete | cashSale | readerDisable | readerCancel =>
    exact SameButSlots.endHostCmd (by subst hm'; exact ⟨_, _, rfl⟩) _

/-- Which answer is expected does not depend on the slots (rule R251). -/
theorem SameButSlots.expectedAnswer {m m' : MInstance} (h : SameButSlots m m') (req : Instr) (c : ResponseClass) :
    expectedAnswer req m' c = expectedAnswer req m c := by
  obtain ⟨host, out, rfl⟩ := h
  cases c <;> cases req <;> rfl

/-! ### The part of a session the link reads -/

/-- `i'` agrees with `i` in all that the link reads (rule R274). -/
structure SameLink (i i' : Instance) : Prop where
  st : i'.st = i.st
  oos : i'.pend.oos = i.pend.oos
  rstAck : i'.pend.rstAck = i.pend.rstAck
  approvalSent : i'.approvalSent = i.approvalSent
  sEnd : i'.pend.sEnd = i.pend.sEnd

theorem SameLink.refl (i : Instance) : SameLink i i := ⟨rfl, rfl, rfl, rfl, rfl⟩

/-- The restart of the idle window is not seen by the link (rule R210). -/
theorem restartIdle_sameLink (k : Kind) (r : CmdResult) : SameLink r.inst (restartIdle k r) := by
  unfold restartIdle
  split <;> exact ⟨rfl, rfl, rfl, rfl, rfl⟩

/-- Leaving DISABLED or ENABLED is seen by the link as the change of state alone (rule R213). -/
theorem setState_sameLink {i : Instance} (h : i.st = .disabled ∨ i.st = .enabled) (st : SessionState) :
    SameLink { i with st := st } (setState i st) := by
  unfold setState
  split
  · rename_i hst
    exact ⟨hst.symm, rfl, rfl, rfl, rfl⟩
  · obtain h | h := h <;> cases st <;> simp only [leaveState, h] <;> exact ⟨rfl, rfl, rfl, rfl, rfl⟩

/-- A host call decides, begins or cancels; none of this is seen by the link before a POLL reports it (rules R220 to R223). -/
theorem applyCall_sameLink (c : InboundCall) (i : Instance) : SameLink i (applyCall c { i with inq := none }).1 := by
  cases c with
  | requestSession f => simp only [applyCall, applyRequestSession]; split <;> exact ⟨rfl, rfl, rfl, rfl, rfl⟩
  | approveVend => simp only [applyCall, applyApproveVend]; split <;> exact ⟨rfl, rfl, rfl, rfl, rfl⟩
  | denyVend => simp only [applyCall, applyDenyVend]; split <;> exact ⟨rfl, rfl, rfl, rfl, rfl⟩
  | cancelSession => simp only [applyCall, applyCancelSession]; split_ifs <;> exact ⟨rfl, rfl, rfl, rfl, rfl⟩

section
variable {m m' : MInstance} {i i' : Instance}

theorem Linked.session (h : Linked m i) (hi : SameLink i i') : Linked m i' where
  state := h.state.trans hi.st.symm
  noOos := hi.oos.trans h.noOos
  rstAck := fun hhs => by rw [hi.rstAck]; exact h.rstAck hhs
  approval := h.approval.trans hi.approvalSent.symm
  ended := by rw [hi.sEnd]; exact h.ended

theorem Linked.slots (h : Linked m i) (hm : SameButSlots m m') : Linked m' i := by
  obtain ⟨host, out, rfl⟩ := hm
  exact { h with }

theorem Answers.session {cfg : Config} {a : Addr5} {req : Instr} {resp : List Word9} (h : Answers cfg a req m i resp)
    (hi : SameLink i i') : Answers cfg a req m i' resp := by
  obtain ⟨c, hresp, hexp, hlink, hrun⟩ := h
  exact ⟨c, hresp, hexp, hlink.session hi, hrun⟩

theorem Answers.slots {cfg : Config} {a : Addr5} {req : Instr} {resp : List Word9} (h : Answers cfg a req m i resp)
    (hm : SameButSlots m m') : Answers cfg a req m' i resp := by
  obtain ⟨c, hresp, hexp, hlink, hrun⟩ := h
  have heffect := hm.missesCleared.responseEffect cfg a req c
  exact ⟨c, hresp, by rw [hm.expectedAnswer, hexp], hlink.slots heffect,
    fun h => heffect.hs.trans (hrun (hm.hs.symm.trans h))⟩

end

end Sys2Proof.Machine
end

section
/-! What a linked session answers to the request its mirror has chosen: the response the mirror expects, whose effect keeps the
link (rules R214, R242, R251, R256 to R269, R274). -/

namespace Sys2Proof.Machine

/-! ### Answers in sequence -/

/-- None of the errors is E3 at a peripheral (rule R212). -/
def NoE3 (es : List ErrorEvent) : Prop := ∀ k st, ErrorEvent.e3 k st ∉ es

theorem noE3_nil : NoE3 [] := by simp [NoE3]

theorem noE3_lostNotification (i : Instance) : NoE3 (lostNotification i) := by
  unfold lostNotification
  split <;> simp [NoE3]

/-- The command result `r` is an answer to `req` that the mirror `m` expects, and took nothing out of sequence. -/
def InSequence (cfg : Config) (a : Addr5) (req : Instr) (m : MInstance) (r : CmdResult) : Prop :=
  Answers cfg a req m r.inst r.resp ∧ NoE3 r.errs

section
variable {cfg : Config} {a : Addr5} {req : Instr} {m x : MInstance} {i j : Instance} {accepted : Bool}
  {errs : List ErrorEvent}

/-- An expected ACK. -/
theorem inSequence_ack (hexp : expectedAck req m = true)
    (heffect : (responseEffect cfg a req { m with misses := 0 } .ack).m = x) (hlink : Linked x j)
    (hrun : m.hs = .hRun → x.hs = .hRun) (herrs : NoE3 errs) : InSequence cfg a req m ⟨j, ackP, accepted, errs⟩ :=
  ⟨⟨.ack, .inl ⟨rfl, rfl⟩, hexp, heffect ▸ hlink, heffect ▸ hrun⟩, herrs⟩

/-- An expected data response. -/
theorem inSequence_data {xs : List Byte} (hne : xs ≠ []) (hlen : xs.length ≤ 30) (hexp : expectedData req m xs = true)
    (heffect : (responseEffect cfg a req { m with misses := 0 } (.data xs)).m = x) (hlink : Linked x j)
    (hrun : m.hs = .hRun → x.hs = .hRun) (herrs : NoE3 errs) :
    InSequence cfg a req m ⟨j, frameP xs, accepted, errs⟩ :=
  ⟨⟨.data xs, .inr ⟨xs, hne, hlen, rfl, rfl⟩, hexp, heffect ▸ hlink, heffect ▸ hrun⟩, herrs⟩

/-- An acknowledged host command: the link is made by its row of rule R262, whatever the slots hold. -/
theorem inSequence_command (hexp : expectedAck req m = true)
    (heffect : responseEffect cfg a req { m with misses := 0 } .ack = ⟨endHostCmd req x, []⟩) (hlink : Linked x j)
    (hhs : x.hs = m.hs) (herrs : NoE3 errs) : InSequence cfg a req m ⟨j, ackP, accepted, errs⟩ :=
  inSequence_ack hexp (congrArg MirrorResult.m heffect) (hlink.slots (endHostCmd_sameButSlots req x))
    (fun h => (endHostCmd_sameButSlots req x).hs.trans (hhs.trans h)) herrs

/-- An event a POLL in H_RUN reports (rules R263 to R268). -/
theorem inSequence_event {xs : List Byte} {e : PollEvent} (hrun : m.hs = .hRun) (hne : xs ≠ []) (hlen : xs.length ≤ 30)
    (hevent : pollEvent xs = some e) (hexp : eventExpected m e = true)
    (hlink : Linked (eventEffect cfg a { m with misses := 0 } e).m j)
    (hstays : (eventEffect cfg a { m with misses := 0 } e).m.hs = .hRun) (herrs : NoE3 errs) :
    InSequence cfg a .poll m ⟨j, frameP xs, accepted, errs⟩ :=
  inSequence_data hne hlen (expectedData_event hrun hevent hexp)
    (congrArg MirrorResult.m (responseEffect_event cfg a hrun hevent)) hlink (fun _ => hstays) herrs

end

/-! ### A mirror and its session -/

/-- A mirror and a session that meet their invariants and are linked (rules R34 to R36, R41, R232, R274). -/
structure Paired (cfg : Config) (m : MInstance) (i : Instance) : Prop where
  link : Linked m i
  mirror : MirrorInv cfg m
  session : SessionInv i

section
variable {cfg : Config} {m : MInstance} {i : Instance}

/-- Outside IDLE neither end of the session is under way at either block. -/
theorem Paired.noEnd (h : Paired cfg m i) (hst : i.st ≠ .idle) : m.endSt = .eNone ∧ i.pend.sEnd = false := by
  have hend : m.endSt = .eNone := not_not.1 fun hne => hst (h.link.state ▸ h.mirror.ending hne)
  have hsEnd : i.pend.sEnd ≠ true := fun hs => by simpa [hend] using h.link.ended.1 hs
  exact ⟨hend, by simpa using hsEnd⟩

/-- Outside VEND neither block holds an approval. -/
theorem Paired.noApproval (h : Paired cfg m i) (hst : i.st ≠ .vend) : m.approved = false ∧ i.approvalSent = false := by
  have happ : m.approved = false := Bool.eq_false_iff.2 fun ha => hst (h.link.state ▸ h.mirror.approved ha)
  exact ⟨happ, h.link.approval ▸ happ⟩

/-- A vend whose decision is still to be reported was not approved at either block (rules R229, R232). -/
theorem Paired.unreported (h : Paired cfg m i) (hp : i.pend.vApp = true ∨ i.pend.vDen = true) :
    m.mst = .vend ∧ m.approved = false := by
  have hsent : i.approvalSent = false := Bool.eq_false_iff.2 fun hs => by
    obtain ⟨hApp, hDen, -⟩ := h.session.rule232.sentDecided hs
    simp [hApp, hDen] at hp
  exact ⟨h.link.state.trans (h.session.rule41.decidedInVend hp), h.link.approval.trans hsent⟩

/-- In H_RUN the reset was reported. -/
theorem Paired.noRstAck (h : Paired cfg m i) (hrun : m.hs = .hRun) : i.pend.rstAck = false := by
  have hiff := h.link.rstAck (by simp [hrun])
  simpa [hrun] using hiff

/-- A link in H_RUN, where the reset was reported. -/
theorem linked_of_running {x : MInstance} {j : Instance} (hrun : x.hs = .hRun) (hstate : x.mst = j.st)
    (hoos : j.pend.oos = false) (hrst : j.pend.rstAck = false) (happ : x.approved = j.approvalSent)
    (hend : j.pend.sEnd = true ↔ x.endSt = .eSent) : Linked x j :=
  ⟨hstate, hoos, fun _ => by simp [hrst, hrun], happ, hend⟩

end

end Sys2Proof.Machine
end

section
/-! Each request in the state its mirror chooses it in (rules R150 to R193, R242, R256 to R272): the session accepts it, and
answers what the mirror expects. -/

namespace Sys2Proof.Machine

section
variable {cfg : Config} (pcfg : Config) {m : MInstance} {i : Instance} (a : Addr5) (h : Paired cfg m i) (hrun : m.hs = .hRun)
include h hrun

/-! ### POLL in H_RUN -/

/-- The approval of a vend (rules R163, R264). -/
theorem Paired.drainVApp (hApp : i.pend.vApp = true) : InSequence cfg a .poll m (drainVApp i) := by
  obtain ⟨hvend, happ⟩ := h.unreported (.inl hApp)
  have hlink : Linked { m with approved := true } { i with pend := { i.pend with vApp := false }, approvalSent := true } :=
    linked_of_running hrun h.link.state h.link.noOos (h.noRstAck hrun) rfl h.link.ended
  exact inSequence_event (e := .vendApproved i.ctx.price) hrun (by simp) (by simp) (by simp [pollEvent])
    (by simp [eventExpected, hvend, happ]) { hlink with } hrun noE3_nil

/-- The denial of a vend (rules R164, R265). -/
theorem Paired.drainVDen (hDen : i.pend.vDen = true) : InSequence cfg a .poll m (drainVDen i) := by
  obtain ⟨hvend, happ⟩ := h.unreported (.inr hDen)
  rw [h.session.drainVDen_eq hDen]
  exact inSequence_event (e := .vendDenied) hrun (by simp) (by simp) (by simp [pollEvent])
    (by simp [eventExpected, hvend, happ])
    (linked_of_running hrun rfl h.link.noOos (h.noRstAck hrun) h.link.approval h.link.ended) hrun noE3_nil

/-- The session's end (rules R165, R267). -/
theorem Paired.drainSEnd (hEnd : i.pend.sEnd = true) : InSequence cfg a .poll m (drainSEnd i) := by
  have hidle : i.st = .idle := h.session.rule41.sEndInIdle hEnd
  obtain ⟨-, hsent⟩ := h.noApproval (by simp [hidle])
  rw [h.session.drainSEnd_eq hEnd]
  exact inSequence_event (e := .endSession) hrun (by simp) (by simp) (by simp [pollEvent])
    (by simp [eventExpected, h.link.state, hidle])
    (linked_of_running hrun rfl h.link.noOos (h.noRstAck hrun) hsent.symm (by simp [eventEffect, notifyMaster])) hrun
    (noE3_lostNotification i)

/-- The session's begin (rules R166, R263). -/
theorem Paired.drainSBeg (hBeg : i.pend.sBeg = true) : InSequence cfg a .poll m (drainSBeg i) := by
  have henabled : i.st = .enabled := h.session.rule41.sBegInEnabled hBeg
  obtain ⟨-, hEnd⟩ := h.noEnd (by simp [henabled])
  rw [h.session.drainSBeg_eq hBeg]
  exact inSequence_event (e := .beginSession i.ctx.funds) hrun (by simp) (by simp) (by simp [pollEvent])
    (by simp [eventExpected, h.link.state, henabled])
    (linked_of_running hrun rfl h.link.noOos (h.noRstAck hrun) h.link.approval (by simp [eventEffect, notifyMaster, hEnd]))
    hrun noE3_nil

/-- The session's cancel, which no end precedes (rules R167, R268). -/
theorem Paired.drainSCan (hEnd : i.pend.sEnd = false) (hCan : i.pend.sCan = true) :
    InSequence cfg a .poll m (drainSCan i) := by
  have hidle : i.st = .idle := h.session.rule41.sCanInIdle hCan
  exact inSequence_event (e := .cancelRequest) hrun (by simp) (by simp) (by simp [pollEvent])
    (by simp [eventExpected, h.link.state, hidle])
    (linked_of_running hrun h.link.state h.link.noOos (h.noRstAck hrun) h.link.approval
      (by simp [eventEffect, notifyMaster, hEnd])) hrun noE3_nil

/-- With nothing pending a POLL is acknowledged (rules R168, R269). -/
theorem Paired.drainNothing : InSequence cfg a .poll m (accept i ackP) := by
  have heffect : (responseEffect cfg a .poll { m with misses := 0 } .ack).m = { m with misses := 0 } := by
    simp [responseEffect, pollEffect, hrun]
  exact inSequence_ack (by simp [expectedAck, hrun]) heffect { h.link with } id noE3_nil

/-- The mirror expects whatever the session has pending: neither `oos` nor `rstAck` (rules R160, R251). -/
theorem Paired.drain : InSequence cfg a .poll m (drain pcfg i) := by
  obtain ⟨hoos, -⟩ | ⟨-, hrst, -⟩ | ⟨-, -, hApp, hd⟩ | ⟨-, -, -, hDen, hd⟩ | ⟨-, -, -, -, hEnd, hd⟩ |
    ⟨-, -, -, -, -, hBeg, hd⟩ | ⟨-, -, -, -, hEnd, -, hCan, hd⟩ | ⟨-, hd⟩ := drain_cases pcfg i
  · simp [h.link.noOos] at hoos
  · simp [h.noRstAck hrun] at hrst
  all_goals rw [hd]
  · exact h.drainVApp a hrun hApp
  · exact h.drainVDen a hrun hDen
  · exact h.drainSEnd a hrun hEnd
  · exact h.drainSBeg a hrun hBeg
  · exact h.drainSCan a hrun hEnd hCan
  · exact h.drainNothing a hrun

/-! ### Commands in H_RUN -/

/-- SESSION_COMPLETE with the session open (rules R174, R242, R262). -/
theorem Paired.sessionComplete (hopen : i.st = .idle ∨ i.st = .vend) :
    InSequence cfg a .sessionComplete m (cmdSessionComplete pcfg i) := by
  have hoos := h.link.noOos
  have hrst := h.noRstAck hrun
  have hlink : Linked { m with misses := 0, mst := .idle, approved := false, endSt := .eSent } (owingEnd i) := by
    obtain hidle | hvend := hopen
    · obtain ⟨-, hsent⟩ := h.noApproval (by simp [hidle])
      rw [owingEnd_idle hidle]
      exact linked_of_running hrun hidle.symm hoos hrst hsent.symm (by simp)
    · rw [owingEnd_vend hvend]
      exact linked_of_running hrun rfl hoos hrst rfl (by simp)
  rw [cmdSessionComplete_open pcfg hopen]
  exact inSequence_command rfl rfl hlink rfl noE3_nil

/-- VEND_REQUEST in IDLE with no session end under way (rules R170, R262). -/
theorem Paired.vendRequest (p n : U16) (hidle : m.mst = .idle) (hend : m.endSt = .eNone) :
    InSequence cfg a (.vendRequest p n) m (cmdVendRequest p n pcfg i) := by
  have hst : i.st = .idle := h.link.state.symm.trans hidle
  have hEnd : i.pend.sEnd = false := Bool.eq_false_iff.2 fun hs => by simpa [hend] using h.link.ended.1 hs
  obtain ⟨-, hsent⟩ := h.noApproval (by simp [hst])
  rw [cmdVendRequest_idle pcfg p n hst hEnd, beginVend_idle pcfg p n hst hEnd]
  exact inSequence_command rfl rfl
    (linked_of_running hrun rfl h.link.noOos (h.noRstAck hrun) hsent.symm (by simp [hEnd, hend])) rfl noE3_nil

/-- VEND_SUCCESS after the approval was reported (rules R172, R262). -/
theorem Paired.vendSuccess (n : U16) (hvend : m.mst = .vend) (happ : m.approved = true) :
    InSequence cfg a (.vendSuccess n) m (cmdVendSuccess pcfg i) := by
  have hst : i.st = .vend := h.link.state.symm.trans hvend
  rw [cmdVendSuccess_vend pcfg hst (h.link.approval.symm.trans happ), setState_vend_idle (by simp [notify, hst])]
  exact inSequence_command rfl rfl
    (linked_of_running hrun rfl h.link.noOos (h.noRstAck hrun) rfl h.link.ended) rfl (noE3_lostNotification i)

/-- VEND_FAILURE in VEND (rules R173, R262). -/
theorem Paired.vendFailure (hvend : m.mst = .vend) : InSequence cfg a .vendFailure m (cmdVendFailure pcfg i) := by
  have hst : i.st = .vend := h.link.state.symm.trans hvend
  rw [cmdVendFailure_vend pcfg hst, setState_vend_idle hst]
  exact inSequence_command rfl rfl
    (linked_of_running hrun rfl h.link.noOos (h.noRstAck hrun) rfl h.link.ended) rfl noE3_nil

/-- READER/DISABLE and READER/ENABLE leave the rest of the link (rules R190, R191, R213). -/
theorem Paired.readerSwitched {st : SessionState} (hst : i.st = .disabled ∨ i.st = .enabled) :
    Linked { m with misses := 0, mst := st } (setState i st) := by
  have hlink : Linked { m with misses := 0, mst := st } { i with st := st } :=
    linked_of_running hrun rfl h.link.noOos (h.noRstAck hrun) h.link.approval h.link.ended
  exact hlink.session (setState_sameLink hst st)

/-- CASH_SALE outside INACTIVE (rules R175, R262). -/
theorem Paired.cashSale (p n : U16) : InSequence cfg a (.cashSale p n) m (cmdCashSale pcfg i) := by
  rw [cmdCashSale_accepted pcfg (h.link.state ▸ h.mirror.running hrun)]
  exact inSequence_command rfl rfl { h.link with } rfl noE3_nil

/-- READER/DISABLE (rules R190, R262). -/
theorem Paired.readerDisable (hst : i.st = .disabled ∨ i.st = .enabled) :
    InSequence cfg a .readerDisable m (cmdReaderDisable pcfg i) := by
  rw [cmdReaderDisable_accepted pcfg hst]
  exact inSequence_command rfl rfl (h.readerSwitched hrun hst) rfl noE3_nil

/-- READER/ENABLE outside the handshake (rules R191, R262). -/
theorem Paired.readerEnable (hst : i.st = .disabled ∨ i.st = .enabled) :
    InSequence cfg a .readerEnable m (cmdReaderEnable pcfg i) := by
  have heffect : responseEffect cfg a .readerEnable { m with misses := 0 } .ack =
      ⟨endHostCmd .readerEnable { m with misses := 0, mst := .enabled }, []⟩ := by simp [responseEffect, hrun]
  rw [cmdReaderEnable_accepted pcfg hst]
  exact inSequence_command rfl heffect (h.readerSwitched hrun hst) rfl noE3_nil

omit hrun in
/-- READER/CANCEL, the one command answered with data (rules R192, R262). -/
theorem Paired.readerCancel (hst : i.st = .disabled ∨ i.st = .enabled) :
    InSequence cfg a .readerCancel m (cmdReaderCancel pcfg i) := by
  have hslots := endHostCmd_sameButSlots .readerCancel { m with misses := 0 }
  have hlink : Linked { m with misses := 0 } { i with pend := { i.pend with sBeg := false } } := { h.link with }
  rw [cmdReaderCancel_accepted pcfg hst]
  exact inSequence_data (by simp) (by simp) rfl rfl (hlink.slots hslots) (fun hr => hslots.hs.trans hr) noE3_nil

/-- The request of a command that applies (rules R262, R272). -/
theorem Paired.command {c : HostCmd} (happ : commandApplies c m = true) :
    InSequence cfg a (commandRequest c m.item) m (ruleOf (commandRequest c m.item) pcfg i) := by
  have hready (hm : m.mst = .disabled ∨ m.mst = .enabled) : i.st = .disabled ∨ i.st = .enabled := h.link.state ▸ hm
  cases c with
  | vendRequest p n =>
    obtain ⟨hidle, hend⟩ : m.mst = .idle ∧ m.endSt = .eNone := by simpa [commandApplies] using happ
    exact h.vendRequest pcfg a hrun p n hidle hend
  | vendOutcome ok =>
    cases ok with
    | true =>
      obtain ⟨hvend, happroved⟩ : m.mst = .vend ∧ m.approved = true := by simpa [commandApplies] using happ
      exact h.vendSuccess pcfg a hrun m.item hvend happroved
    | false => exact h.vendFailure pcfg a hrun (by simpa [commandApplies] using happ)
  | sessionComplete =>
    obtain ⟨hopen, -⟩ : (m.mst = .idle ∨ m.mst = .vend) ∧ m.endSt ≠ .eSent := by simpa [commandApplies] using happ
    exact h.sessionComplete pcfg a hrun (h.link.state ▸ hopen)
  | cashSale p n => exact h.cashSale pcfg a hrun p n
  | readerDisable => exact h.readerDisable pcfg a hrun (hready (by simpa [commandApplies] using happ))
  | readerEnable => exact h.readerEnable pcfg a hrun (hready (by simpa [commandApplies] using happ))
  | readerCancel => exact h.readerCancel pcfg a (hready (by simpa [commandApplies] using happ))

/-- Every request a mirror in H_RUN can have sent (rules R242, R272). -/
theorem Paired.running {req : Instr} (hsel : Selectable cfg a m req) : InSequence cfg a req m (ruleOf req pcfg i) := by
  rw [Selectable, if_pos hrun] at hsel
  obtain rfl | ⟨-, hidle, rfl⟩ | ⟨c, happ, rfl⟩ := hsel
  · exact h.drain pcfg a hrun
  · exact h.sessionComplete pcfg a hrun (.inl (h.link.state ▸ hidle))
  · exact h.command pcfg a hrun happ

end

/-! ### The handshake -/

section
variable {cfg : Config} (pcfg : Config) {m : MInstance} {i : Instance} (a : Addr5) (h : Paired cfg m i)
include h

/-- RESET (rules R150, R256). -/
theorem Paired.reset (hhs : m.hs = .hReset) : InSequence cfg a .reset m (cmdReset pcfg i) := by
  obtain ⟨hinactive, -⟩ := h.mirror.unlearned (by rw [hhs]; rfl)
  have hst : i.st = .inactive := h.link.state.symm.trans hinactive
  obtain ⟨happ, -⟩ := h.noApproval (by simp [hst])
  obtain ⟨hend, -⟩ := h.noEnd (by simp [hst])
  have hlink : Linked { m with misses := 0, hs := .hWaitJr }
      { clearSession i with pend := { nothingPending with rstAck := true } } :=
    { state := hinactive, noOos := rfl, rstAck := fun _ => by simp, approval := happ
      ended := by simp [nothingPending, hend] }
  rw [cmdReset_unsold pcfg (by simp [hst])]
  exact inSequence_ack rfl rfl hlink (by simp [hhs]) noE3_nil

/-- The first POLL after RESET (rules R162, R258). -/
theorem Paired.justReset (hhs : m.hs = .hWaitJr) : InSequence cfg a .poll m (Machine.drain pcfg i) := by
  have hrst : i.pend.rstAck = true := (h.link.rstAck (by simp [hhs])).2 hhs
  have heffect : (responseEffect cfg a .poll { m with misses := 0 } (.data [0x00])).m =
      { m with misses := 0, hs := .hConfig } := by simp [responseEffect, pollEffect, hhs]
  rw [drain_rstAck h.link.noOos hrst]
  exact inSequence_data (by simp) (by simp) (by simp [expectedData, hhs]) heffect
    { h.link with rstAck := fun _ => by simp } (by simp [hhs]) noE3_nil

/-- CONFIG_DATA (rules R152, R257). -/
theorem Paired.configData (hhs : m.hs = .hConfig) (fl cols rows info : Byte) :
    InSequence cfg a (.configData fl cols rows info) m (cmdConfigData pcfg i) := by
  obtain ⟨hinactive, -⟩ := h.mirror.unlearned (by rw [hhs]; rfl)
  have hrst : i.pend.rstAck = false := by simpa [hhs] using h.link.rstAck (by simp [hhs])
  have hlink : Linked { m with misses := 0, pcfg := learnPcfg (capRecord pcfg), mst := .disabled, hs := .hMaxMin }
      { i with st := .disabled } := { h.link with state := rfl, rstAck := fun _ => by simp [hrst] }
  rw [cmdConfigData_accepted pcfg (.inl (h.link.state ▸ hinactive))]
  exact inSequence_data (by simp [capRecord]) (by simp [capRecord]) (by simp [expectedData, capRecord]) rfl hlink
    (by simp [hhs]) noE3_nil

/-- In the later steps of the handshake the session is DISABLED and the reset was reported (rules R257 to R261). -/
theorem Paired.learned (hl : m.hs.unlearned = false) (hrun : m.hs ≠ .hRun) :
    i.st = .disabled ∧ i.pend.rstAck = false := by
  have hne : m.hs ≠ .hReset ∧ m.hs ≠ .hWaitJr := by constructor <;> rintro hhs <;> simp [hhs, HsStep.unlearned] at hl
  exact ⟨h.link.state ▸ h.mirror.handshake hl hrun, by simpa [hne] using h.link.rstAck hne.1⟩

/-- MAX_MIN_PRICES (rules R153, R259). -/
theorem Paired.maxMinPrices (hhs : m.hs = .hMaxMin) (mx mn : U16) :
    InSequence cfg a (.maxMinPrices mx mn) m (cmdMaxMinPrices pcfg i) := by
  obtain ⟨hst, hrst⟩ := h.learned (by rw [hhs]; rfl) (by simp [hhs])
  have hlink : Linked { m with misses := 0, hs := .hExpId } i := { h.link with rstAck := fun _ => by simp [hrst] }
  rw [cmdMaxMinPrices_accepted pcfg (.inl hst)]
  exact inSequence_ack rfl rfl hlink (by simp [hhs]) noE3_nil

/-- REQUEST_ID (rules R193, R260): with legal parameters the identification record has the 30 bytes of rule R89. -/
theorem Paired.requestId (hp : configOk pcfg = true) (hhs : m.hs = .hExpId) (mfr serial model sw : List Byte) :
    InSequence cfg a (.requestId mfr serial model sw) m (cmdRequestId pcfg i) := by
  obtain ⟨hst, hrst⟩ := h.learned (by rw [hhs]; rfl) (by simp [hhs])
  obtain ⟨-, -, -, hmfr, hserial, hmodel, hsw, -⟩ := (configOk_iff pcfg).1 hp
  have hlen : (idRecord pcfg).length = 30 := by simp [idRecord, hmfr, hserial, hmodel, hsw]
  have hlink : Linked { m with misses := 0, hs := .hEnable } i := { h.link with rstAck := fun _ => by simp [hrst] }
  rw [cmdRequestId_accepted pcfg (.inl hst)]
  exact inSequence_data (by simp [idRecord]) hlen.le (by simp [expectedData, hlen]; simp [idRecord]) rfl hlink
    (by simp [hhs]) noE3_nil

/-- READER_ENABLE that ends the handshake (rules R191, R261). -/
theorem Paired.firstEnable (hhs : m.hs = .hEnable) : InSequence cfg a .readerEnable m (cmdReaderEnable pcfg i) := by
  obtain ⟨hst, hrst⟩ := h.learned (by rw [hhs]; rfl) (by simp [hhs])
  have heffect : (responseEffect cfg a .readerEnable { m with misses := 0 } .ack).m =
      { m with misses := 0, mst := .enabled, hs := .hRun } := by simp [responseEffect, hhs]
  have hlink : Linked { m with misses := 0, mst := .enabled, hs := .hRun } (setState i .enabled) := by
    rw [setState_disabled_enabled hst]
    exact linked_of_running rfl rfl h.link.noOos hrst h.link.approval h.link.ended
  rw [cmdReaderEnable_accepted pcfg (.inl hst)]
  exact inSequence_ack rfl heffect hlink (by simp [hhs]) noE3_nil

/-- The request of every handshake step (rule R242). -/
theorem Paired.handshake (hp : configOk pcfg = true) (hrun : m.hs ≠ .hRun) :
    InSequence cfg a (selectRequest cfg a m).1 m (ruleOf (selectRequest cfg a m).1 pcfg i) := by
  cases hhs : m.hs <;> simp only [selectRequest, hhs]
  case hRun => exact absurd hhs hrun
  case hReset => exact h.reset pcfg a hhs
  case hWaitJr => exact h.justReset pcfg a hhs
  case hConfig => exact h.configData pcfg a hhs ..
  case hMaxMin => exact h.maxMinPrices pcfg a hhs ..
  case hExpId => exact h.requestId pcfg a hp hhs ..
  case hEnable => exact h.firstEnable pcfg a hhs

/-- A linked session answers in sequence every request its mirror can have sent (rules R214, R242, R251, R274). -/
theorem Paired.inSequence (hp : configOk pcfg = true) {req : Instr} (hsel : Selectable cfg a m req) :
    InSequence cfg a req m (ruleOf req pcfg i) := by
  by_cases hrun : m.hs = .hRun
  · exact h.running pcfg a hrun hsel
  · obtain rfl := selectable_handshake hsel hrun
    exact h.handshake pcfg a hp hrun

end

end Sys2Proof.Machine
end

section
/-! A request word by word at LINE, and a response word by word at MSEQ (rules R76, R126, R127, R130, R131). -/

namespace Sys2Proof.Machine

/-! ### The words of a request -/

section
variable {a : Addr5} {req : Instr}

theorem encode_eq_cons {b0 : Byte} {rest : List Byte} (h : requestBytes a req = b0 :: rest) :
    encode a req = mkWord true b0 :: wordsAfter a req 1 := by
  simp [wordsAfter, encode, h, masterFrame_cons]

theorem encode_length (a : Addr5) (req : Instr) : (encode a req).length = (requestBytes a req).length + 1 := by
  obtain ⟨b0, rest, h⟩ := List.exists_cons_of_ne_nil (requestBytes_ne_nil a req)
  simp [encode, h, masterFrame_cons]

/-- After the address byte the words of a request are its other bytes and its checksum, all mode-clear (rules R76, R124). -/
theorem wordsAfter_eq {k : Nat} (hk : 0 < k) :
    wordsAfter a req k =
      ((requestBytes a req ++ [sum8 (requestBytes a req)]).drop k).map (mkWord false) := by
  obtain ⟨b0, rest, h⟩ := List.exists_cons_of_ne_nil (requestBytes_ne_nil a req)
  obtain ⟨k, rfl⟩ := Nat.exists_eq_succ_of_ne_zero hk.ne'
  simp [wordsAfter, encode, h, masterFrame_cons, List.map_drop]

/-- A word inside a request. -/
theorem wordsAfter_byte {k : Nat} (hk : 0 < k) (hlt : k < (requestBytes a req).length) :
    wordsAfter a req k = mkWord false (requestBytes a req)[k] :: wordsAfter a req (k + 1) := by
  have hlt' : k < (requestBytes a req ++ [sum8 (requestBytes a req)]).length := by simp; omega
  rw [wordsAfter_eq hk, wordsAfter_eq k.succ_pos, List.drop_eq_getElem_cons hlt', List.getElem_append_left hlt]
  rfl

/-- The last word of a request. -/
theorem wordsAfter_checksum : wordsAfter a req (requestBytes a req).length = [mkWord false (sum8 (requestBytes a req))] := by
  rw [wordsAfter_eq (List.length_pos_iff.2 (requestBytes_ne_nil a req)), List.drop_left]
  rfl

/-! ### A request arriving at LINE -/

variable {s : State}

/-- The address byte of a request starts its frame (rule R126). -/
theorem receiveWord_first (hown : a ∈ s.cfg.ownAddrs) (hwf : req.WellFormed) (hrx : betweenFrames s.rx = true) :
    ∃ b0 rest, requestBytes a req = b0 :: rest ∧ receiveWord s (mkWord true b0) = { s with rx := collected a req 1 } := by
  obtain ⟨b0, rest, c, hbytes, rfl, hc, hlengths⟩ := requestBytes_lengths a hwf
  have htrunc : truncationEvent s.rx = [] := by
    obtain h | h := (betweenFrames_iff s.rx).1 hrx <;> rw [h] <;> rfl
  refine ⟨b0, rest, hbytes, ?_⟩
  rw [receiveWord_address hown hc, htrunc, List.append_nil]
  obtain ⟨hl, rfl⟩ | ⟨hl, -⟩ := hlengths
  · simp [collected, hbytes, hl, encode_length]
  · simp [collected, hbytes, hl]

/-- Past its first byte a request is collected with its length known, unless only that byte has come and its sub-command is to
follow (rules R84, R85). -/
theorem collected_cases (hwf : req.WellFormed) (k : Nat) :
    collected a req k = .collect a ((requestBytes a req).take k) (some ((requestBytes a req).length + 1)) ∨
      ∃ b0 sub rest, k = 1 ∧ requestBytes a req = b0 :: sub :: rest ∧ collected a req k = .collect a [b0] none ∧
        reqLen (commandCode b0) sub = some ((requestBytes a req).length + 1) := by
  obtain ⟨b0, rest, c, hbytes, -, -, hlengths⟩ := requestBytes_lengths a hwf
  by_cases hk1 : k = 1
  · obtain ⟨hl, rfl⟩ | ⟨hl, sub, p, rfl, hp⟩ := hlengths
    · exact .inl (by simp [collected, hbytes, hl, encode_length])
    · exact .inr ⟨b0, sub, p, hk1, hbytes, by simp [collected, hbytes, hl, hk1], by simpa [hbytes] using hp⟩
  · exact .inl (by simp [collected, hk1, encode_length])

/-- A byte inside a request extends its frame (rule R126). -/
theorem receiveWord_inside (hwf : req.WellFormed) {k : Nat} (hk : 0 < k) (hlt : k < (requestBytes a req).length)
    (hrx : s.rx = collected a req k) :
    receiveWord s (mkWord false (requestBytes a req)[k]) = { s with rx := collected a req (k + 1) } := by
  have hgrown : collected a req (k + 1) =
      .collect a ((requestBytes a req).take (k + 1)) (some ((requestBytes a req).length + 1)) := by
    simp [collected, hk.ne', encode_length]
  rw [hgrown]
  obtain hknown | ⟨b0, sub, rest, rfl, hbytes, hunknown, hlen⟩ := collected_cases (a := a) hwf k
  · rw [receiveWord_known (modeOf_mkWord ..) (hrx.trans hknown), dataOf_mkWord, List.take_append_getElem hlt,
      collectFrame_short (by simp)]
  · rw [receiveWord_sub (modeOf_mkWord ..) (hrx.trans hunknown), dataOf_mkWord]
    simp only [hbytes, List.getElem_cons_succ, List.getElem_cons_zero] at hlen ⊢
    rw [hlen]
    exact collectFrame_short (by simp)

/-- The checksum of a request completes its frame, which LINE hands over (rules R126, R127). -/
theorem receiveWord_checksum (hwf : req.WellFormed) (hrx : s.rx = collected a req (requestBytes a req).length)
    (hslot : s.rxSlot = none) :
    receiveWord s (mkWord false (sum8 (requestBytes a req))) =
      { s with rx := .idle, rxSlot := some (a, requestBytes a req) } := by
  have hne := requestBytes_ne_nil a req
  obtain hknown | ⟨b0, sub, rest, hone, hbytes, -⟩ := collected_cases (a := a) hwf (requestBytes a req).length
  · rw [List.take_length] at hknown
    have hvalid : checksumValid (requestBytes a req ++ [sum8 (requestBytes a req)]) = true := by
      simp [checksumValid_snoc, hne]
    rw [receiveWord_known (modeOf_mkWord ..) (hrx.trans hknown), dataOf_mkWord, collectFrame_valid (by simp) hvalid, hslot]
    simp [overwriteEvent]
  · simp [hbytes] at hone

end

/-! ### The words of a response -/

/-- `resp` is a response of the class `c` that the peripheral emits whole, its ACK or a data response of at most 30 bytes: the
first clause of `Answers`. -/
def IsResponse (resp : List Word9) (c : ResponseClass) : Prop :=
  resp = [0x100] ∧ c = .ack ∨ ∃ xs, xs ≠ [] ∧ xs.length ≤ 30 ∧ resp = frameP xs ∧ c = .data xs

section
variable {resp buf : List Word9} {c : ResponseClass} {w : Word9}

theorem IsResponse.valid (h : IsResponse resp c) : c = .ack ∨ ∃ bytes, c = .data bytes := by
  obtain ⟨-, rfl⟩ | ⟨xs, -, -, -, rfl⟩ := h
  · exact .inl rfl
  · exact .inr ⟨xs, rfl⟩

/-- The master classifies a response as what it is (rule R131). -/
theorem IsResponse.classify (h : IsResponse resp c) : classify resp = (c, []) := by
  obtain ⟨rfl, rfl⟩ | ⟨xs, hne, -, rfl, rfl⟩ := h
  · exact classify_one 0x100
  · exact classify_frameP hne

/-- A response is mode-clear words and one mode-flagged word at its end (rules R76, R123). -/
theorem IsResponse.eq_snoc (h : IsResponse resp c) :
    ∃ front last, resp = front ++ [last] ∧ front.length ≤ 30 ∧ (∀ v ∈ front, modeOf v = false) ∧
      modeOf last = true := by
  obtain ⟨rfl, -⟩ | ⟨xs, -, hlen, rfl, -⟩ := h
  · exact ⟨[], 0x100, rfl, by simp, by simp, by decide⟩
  · exact ⟨_, _, frameP_snoc xs, by simpa using hlen, by simp, by simp⟩

theorem IsResponse.ne_nil (h : IsResponse resp c) : resp ≠ [] := by
  obtain ⟨front, last, rfl, -⟩ := h.eq_snoc
  simp

/-- The last word of a response is mode-flagged. -/
theorem IsResponse.mode_last (h : IsResponse (buf ++ [w]) c) : modeOf w = true := by
  obtain ⟨front, last, heq, -, -, hlast⟩ := h.eq_snoc
  obtain ⟨-, rfl⟩ : buf = front ∧ w = last := by simpa using List.append_inj' heq rfl
  exact hlast

/-- The words before the last are mode-clear and at most 30. -/
theorem IsResponse.mode_front {v : Word9} {rest : List Word9} (h : IsResponse (buf ++ w :: v :: rest) c) :
    modeOf w = false ∧ buf.length + 1 ≤ 30 := by
  obtain ⟨front, last, heq, hlen, hclear, -⟩ := h.eq_snoc
  have hfront : front = buf ++ w :: (v :: rest).dropLast := by
    have := congrArg List.dropLast heq
    simpa [List.dropLast_append_of_ne_nil] using this.symm
  exact ⟨hclear w (by simp [hfront]), by simp [hfront] at hlen; omega⟩

end

end Sys2Proof.Machine
end

section
/-! The joined system step by step (rule R274): every arrival and every move of either block, but the response timeout, leads from
one point of a transaction to another. -/

namespace Sys2Proof.Machine

/-! ### One address -/

section
variable {α : Type} {a b : Addr5} {t : List (Addr5 × α)} {v : α}

/-- A table of one address has an entry there and nowhere else. -/
theorem lookupAt_of_keys_singleton (h : t.map Prod.fst = [a]) (hv : lookupAt b t = some v) : b = a := by
  have hmem := (lookupAt_isSome b t).1 (by simp [hv])
  simpa [h] using hmem

end

/-! ### What a step keeps -/

/-- What a step of the joined system from `j` to `k` keeps: the invariant, no E3 at the peripheral, a running handshake. -/
structure JoinedKeeps (a : Addr5) (j k : Joined) : Prop where
  inv : JoinedInv a k
  noE3 : ∀ kind st, .e3 kind st ∈ k.peripheral.log → .e3 kind st ∈ j.peripheral.log
  running : ∀ m m', j.master.mirrorAt a = some m → k.master.mirrorAt a = some m' → m.hs = .hRun → m'.hs = .hRun

section
variable {a : Addr5} {j k : Joined} {m m' : MInstance} {i i' : Instance}

/-- A step is kept if both blocks make moves and the transaction goes on. -/
theorem JoinedInv.keeps (h : JoinedInv a j) (hmaster : MoveEffect j.master k.master)
    (hperipheral : MoveEffect j.peripheral k.peripheral) (hm : j.master.mirrorAt a = some m)
    (hm' : k.master.mirrorAt a = some m') (hi' : k.peripheral.instanceAt a = some i') (hprogress : Progress a k m' i')
    (hrun : m.hs = .hRun → m'.hs = .hRun) {es : List ErrorEvent} (hlog : k.peripheral.log = j.peripheral.log ++ es)
    (hes : NoE3 es) : JoinedKeeps a j k where
  inv := by
    have hcm := hmaster.extends.cfg
    have hcp := hperipheral.extends.cfg
    exact {
      masterRole := by rw [hcm, h.masterRole]
      peripheralRole := by rw [hcp, h.peripheralRole]
      masterAddrs := by rw [hcm, h.masterAddrs]
      peripheralAddrs := by rw [hcp, h.peripheralAddrs]
      room := by rw [hcm]; exact h.room
      masterInv := hmaster.masterInv h.masterInv
      lineInv := hperipheral.lineInv h.lineInv
      sessions := hperipheral.sessionsOk h.sessions
      progress := ⟨m', i', hm', hi', hprogress⟩ }
  noE3 := fun kind st hmem => by
    rw [hlog, List.mem_append] at hmem
    exact hmem.resolve_right (hes kind st)
  running := fun n n' hn hn' hhs => by
    obtain rfl : m = n := Option.some.inj (hm.symm.trans hn)
    obtain rfl : m' = n' := Option.some.inj (hm'.symm.trans hn')
    exact hrun hhs

/-- A move tried is a move made or none. -/
theorem tryMove_effect (s : State) (mv : Move) : MoveEffect s (tryMove s mv) := by
  obtain ⟨t, ht, hs⟩ | hs := tryMove_cases s mv
  · rw [hs]; exact takeMove_effect ht
  · rw [hs]; exact .nothing

/-- The peripheral has a session at the one address only. -/
theorem JoinedInv.session_address (h : JoinedInv a j) {b : Addr5} (hi : j.peripheral.instanceAt b = some i) : b = a := by
  obtain ⟨hkeys, -⟩ := h.lineInv.tables.peripheral h.peripheralRole
  exact lookupAt_of_keys_singleton (hkeys.trans h.peripheralAddrs) hi

/-- The master has a mirror at the one address only. -/
theorem JoinedInv.mirror_address (h : JoinedInv a j) {b : Addr5} (hm : j.master.mirrorAt b = some m) : b = a := by
  obtain ⟨-, hkeys⟩ := h.masterInv.tables.master h.masterRole
  exact lookupAt_of_keys_singleton (hkeys.trans h.masterAddrs) hm

/-- The turn is always that of the one address. -/
theorem JoinedInv.turnAddress (h : JoinedInv a j) : j.master.turnAddress = some a := by
  have hturn := h.masterInv.tables.turn
  simp only [h.masterAddrs, List.length_singleton, Nat.lt_one_iff] at hturn
  simp [State.turnAddress, h.masterAddrs, hturn]

/-- The mirror and the session meet their invariants. -/
theorem JoinedInv.paired (h : JoinedInv a j) (hm : j.master.mirrorAt a = some m) (hi : j.peripheral.instanceAt a = some i)
    (hlink : Linked m i) : Paired j.master.cfg m i :=
  ⟨hlink, h.masterInv.mirrors _ (mem_of_lookupAt hm), h.sessions _ (mem_of_lookupAt hi)⟩

/-! ### Moves that leave the transaction -/

/-- `k` differs from `j` in nothing the point of a transaction is made of. -/
structure SameTransaction (j k : Joined) : Prop where
  phase : k.master.phase = j.master.phase
  cfg : k.master.cfg = j.master.cfg
  rx : k.peripheral.rx = j.peripheral.rx
  rxSlot : k.peripheral.rxSlot = j.peripheral.rxSlot
  txSlot : k.peripheral.txSlot = j.peripheral.txSlot
  toPeripheral : k.toPeripheral = j.toPeripheral
  toMaster : k.toMaster = j.toMaster

/-- The point of a transaction stays where slots of the mirror and flags the link does not read are written. -/
theorem Progress.congr (h : Progress a j m i) (hsame : SameTransaction j k) (hm : SameButSlots m m') (hi : SameLink i i') :
    Progress a k m' i' := by
  obtain ⟨hphase, hcfg, hrx, hslot, htx, hto, hback⟩ := hsame
  have hlink (hl : Linked m i) : Linked m' i' := (hl.slots hm).session hi
  cases h with
  | between phase rx slot tx line back link =>
    exact .between (hphase.trans phase) (hrx ▸ rx) (hslot.trans slot) (htx.trans tx) (hto ▸ line) (hback.trans back)
      (hlink link)
  | requested req phase encodes rx slot tx line back link =>
    exact .requested req (hphase.trans phase) encodes (hrx ▸ rx) (hslot.trans slot) (htx.trans tx) (hto ▸ line)
      (hback.trans back) (hlink link)
  | arriving req n phase encodes pos notAll rx slot tx line back link =>
    exact .arriving req n (hphase.trans phase) encodes pos notAll (hrx.trans rx) (hslot.trans slot) (htx.trans tx)
      (hto.trans line) (hback.trans back) (hlink link)
  | handed req phase encodes rx slot tx line back link =>
    exact .handed req (hphase.trans phase) encodes (hrx.trans rx) (hslot.trans slot) (htx.trans tx) (hto.trans line)
      (hback.trans back) (hlink link)
  | answered req resp phase rx slot tx line back answers =>
    exact .answered req resp (hphase.trans phase) (hrx.trans rx) (hslot.trans slot) (htx.trans tx) (hto.trans line)
      (hback.trans back) (hcfg ▸ (answers.slots hm).session hi)
  | returning req buf phase rx slot tx line back answers =>
    exact .returning req buf (hphase.trans phase) (hrx.trans rx) (hslot.trans slot) (htx.trans tx) (hto.trans line)
      (hback ▸ back) (hcfg ▸ hback ▸ (answers.slots hm).session hi)

/-! ### Arrivals at the peripheral -/

/-- A word that arrives at the peripheral is the ACK it ignores, or the next of the request. -/
theorem Progress.arriveAtPeripheral (h : Progress a j m i) (hown : a ∈ j.peripheral.cfg.ownAddrs) {w : Word9}
    {ws : List Word9} (hline : j.toPeripheral = w :: ws) :
    ∃ rx slot, receiveWord j.peripheral w = { j.peripheral with rx := rx, rxSlot := slot } ∧
      Progress a { j with peripheral := { j.peripheral with rx := rx, rxSlot := slot }, toPeripheral := ws } m i := by
  have hignored (hrx : betweenFrames j.peripheral.rx = true) : receiveWord j.peripheral 0x000 = j.peripheral :=
    receiveWord_between (by decide) hrx
  cases h with
  | between phase rx slot tx line back link =>
    obtain ⟨rfl, rfl⟩ : w = 0x000 ∧ ws = [] := by simpa [hline] using line
    exact ⟨j.peripheral.rx, j.peripheral.rxSlot, hignored rx, .between phase rx slot tx (.inl rfl) back link⟩
  | requested req phase encodes rx slot tx line back link =>
    obtain ⟨b0, rest, hbytes, hfirst⟩ := receiveWord_first hown encodes rx
    obtain hsent | hbehind := line
    · obtain ⟨rfl, rfl⟩ : w = mkWord true b0 ∧ ws = wordsAfter a req 1 := by
        simpa [hline, encode_eq_cons hbytes] using hsent
      have hlong : 1 < (encode a req).length := by simp [encode_length, hbytes]
      exact ⟨_, _, hfirst, .arriving req 1 phase encodes Nat.one_pos hlong rfl slot tx rfl back link⟩
    · obtain ⟨rfl, rfl⟩ : w = 0x000 ∧ ws = encode a req := by simpa [hline] using hbehind
      exact ⟨j.peripheral.rx, j.peripheral.rxSlot, hignored rx,
        .requested req phase encodes rx slot tx (.inl rfl) back link⟩
  | arriving req n phase encodes pos notAll rx slot tx line back link =>
    rw [encode_length] at notAll
    obtain hlt | rfl := Nat.lt_or_eq_of_le (Nat.le_of_lt_succ notAll)
    · obtain ⟨rfl, rfl⟩ : w = mkWord false (requestBytes a req)[n] ∧ ws = wordsAfter a req (n + 1) := by
        simpa [hline, wordsAfter_byte pos hlt] using line
      exact ⟨_, _, receiveWord_inside encodes pos hlt rx,
        .arriving req (n + 1) phase encodes n.succ_pos (by simpa [encode_length] using hlt) rfl slot tx rfl back link⟩
    · obtain ⟨rfl, rfl⟩ : w = mkWord false (sum8 (requestBytes a req)) ∧ ws = [] := by
        simpa [hline, wordsAfter_checksum] using line
      exact ⟨_, _, receiveWord_checksum encodes rx slot, .handed req phase encodes rfl rfl tx rfl back link⟩
  | handed req phase encodes rx slot tx line back link => simp [hline] at line
  | answered req resp phase rx slot tx line back answers => simp [hline] at line
  | returning req buf phase rx slot tx line back answers => simp [hline] at line

/-- A block of either role takes a word whenever one comes (rule R112). -/
theorem tryMove_rxWord (s : State) (w : Word9) : tryMove s (.rxWord w) = receive s w := by
  have henabled : enabled s (.rxWord w) = true := by
    cases hr : s.cfg.role <;> simp [enabled, hr, peripheralEnabled, masterEnabled]
  rw [tryMove_enabled henabled (by simp), performMove]

/-- A word received at a PERIPHERAL. -/
theorem tryMove_rxWord_peripheral {s : State} (hr : s.cfg.role = .peripheral) (w : Word9) :
    tryMove s (.rxWord w) = receiveWord s w := by
  rw [tryMove_rxWord, receive, hr]

/-- An arrival at the peripheral. -/
theorem JoinedInv.arriveAtPeripheral (h : JoinedInv a j) {w : Word9} {ws : List Word9} (hline : j.toPeripheral = w :: ws) :
    JoinedKeeps a j ({ j with toPeripheral := ws }.movePeripheral (.rxWord w)) := by
  obtain ⟨m, i, hm, hi, hprogress⟩ := h.progress
  obtain ⟨rx, slot, hword, hnext⟩ := hprogress.arriveAtPeripheral (by simp [h.peripheralAddrs]) hline
  have hmove := (tryMove_rxWord_peripheral h.peripheralRole w).trans hword
  have hafter : { j with toPeripheral := ws }.movePeripheral (.rxWord w) =
      { j with peripheral := { j.peripheral with rx := rx, rxSlot := slot }, toPeripheral := ws } := by
    simp [Joined.movePeripheral, hmove, emittedSince]
  have heffect := tryMove_effect j.peripheral (.rxWord w)
  rw [hmove] at heffect
  rw [hafter]
  exact h.keeps .nothing heffect hm hm hi hnext id (List.append_nil _).symm noE3_nil

/-! ### Arrivals at the master -/

/-- A word received at a MASTER. -/
theorem tryMove_rxWord_master {s : State} (hr : s.cfg.role = .master) (w : Word9) :
    tryMove s (.rxWord w) = receiveResponse s w := by
  rw [tryMove_rxWord, receive, hr]

/-- A word that arrives at the master belongs to a response under way. -/
theorem Progress.returning_of_back (h : Progress a j m i) (hback : j.toMaster ≠ []) :
    ∃ req buf, j.master.phase = .mAwait a req buf ∧ j.peripheral.rx = .idle ∧ j.peripheral.rxSlot = none ∧
      j.peripheral.txSlot = none ∧ j.toPeripheral = [] ∧ Answers j.master.cfg a req m i (buf ++ j.toMaster) := by
  cases h with
  | returning req buf phase rx slot tx line back answers => exact ⟨req, buf, phase, rx, slot, tx, line, answers⟩
  | _ => contradiction

/-- The last word of an expected response completes its transaction (rules R250, R273). -/
theorem receiveResponse_expected {s : State} {w : Word9} {req : Instr} {buf : List Word9} {c : ResponseClass}
    (hphase : s.phase = .mAwait a req buf) (hresp : IsResponse (buf ++ [w]) c) (hm : s.mirrorAt a = some m)
    (hexp : expectedAnswer req m c = true) :
    receiveResponse s w =
      { s with
        mirror := updateAt a (responseEffect s.cfg a req { m with misses := 0 } c).m s.mirror
        log := s.log ++ (responseEffect s.cfg a req { m with misses := 0 } c).errs
        out := s.out ++ masterAck c
        turn := (s.turn + 1) % s.cfg.addrs.length
        phase := .mIdle } := by
  have hraise : s.raise [] = s := by simp [State.raise]
  rw [receiveResponse_last hphase hresp.mode_last, hresp.classify, hraise, complete_eq req c hm,
    completeMirror_expected a hresp.valid hexp]

/-- The master answers a response with its ACK or with nothing (rule R273). -/
theorem masterAck_cases (c : ResponseClass) : masterAck c = [] ∨ masterAck c = [0x000] := by
  cases c with
  | data bytes => exact .inr rfl
  | _ => exact .inl rfl

/-- An arrival at the master: the response goes on, or its last word completes the transaction. -/
theorem JoinedInv.arriveAtMaster (h : JoinedInv a j) {w : Word9} {ws : List Word9} (hline : j.toMaster = w :: ws) :
    JoinedKeeps a j ({ j with toMaster := ws }.moveMaster (.rxWord w)) := by
  obtain ⟨m, i, hm, hi, hprogress⟩ := h.progress
  obtain ⟨req, buf, hphase, hrx, hslot, htx, hto, c, hresp, hexp, hlink, hrun⟩ :=
    hprogress.returning_of_back (by simp [hline])
  have hmove := tryMove_rxWord_master h.masterRole w
  have heffect := tryMove_effect j.master (.rxWord w)
  rw [hline] at hresp
  rcases ws with _ | ⟨v, vs⟩
  case nil =>
    rw [receiveResponse_expected hphase hresp hm hexp] at hmove
    have hout : emittedSince j.master (tryMove j.master (.rxWord w)) = masterAck c :=
      emittedSince_append (by rw [hmove])
    have hm' : (tryMove j.master (.rxWord w)).mirrorAt a =
        some (responseEffect j.master.cfg a req { m with misses := 0 } c).m := by
      rw [State.mirrorAt] at hm ⊢
      rw [hmove]
      simp [hm]
    refine h.keeps heffect .nothing hm hm' hi (.between ?phase ?rx hslot htx ?line rfl hlink) hrun
      (List.append_nil _).symm noE3_nil
    case phase => simp [hmove]
    case rx => simp [hrx, betweenFrames]
    case line => simpa [hto, hout] using masterAck_cases c
  case cons =>
    obtain ⟨hclear, hlen⟩ := IsResponse.mode_front hresp
    rw [receiveResponse_more hphase hclear (by have := h.room; omega)] at hmove
    have hanswers : Answers j.master.cfg a req m i (buf ++ [w] ++ v :: vs) := by
      rw [List.append_assoc]
      exact ⟨c, hresp, hexp, hlink, hrun⟩
    refine h.keeps heffect .nothing hm ?mirror hi (.returning req (buf ++ [w]) ?phase hrx hslot htx ?line ?back ?answers)
      id (List.append_nil _).symm noE3_nil
    case mirror => exact (congrArg (State.mirrorAt · a) hmove).trans hm
    case phase => simp [hmove]
    case line => simp [hmove, hto, emittedSince]
    case back => simp
    case answers => simpa [hmove] using hanswers

/-! ### Moves of the master -/

/-- Every request a MASTER with legal parameters selects has an encoding (rules R82, R242). -/
theorem selectRequest_wellFormed {cfg : Config} (hc : configOk cfg = true) (a : Addr5) (m : MInstance) :
    (selectRequest cfg a m).1.WellFormed := by
  obtain ⟨-, -, -, -, -, -, -, hid⟩ := (configOk_iff cfg).1 hc
  have hcommand (c : HostCmd) : (hostRequest m c).WellFormed := by
    rcases c with _ | ok | _ | _ | _ | _ | _
    case vendOutcome => cases ok <;> rfl
    all_goals rfl
  rcases hhs : m.hs <;> simp only [selectRequest, hhs]
  case hExpId =>
    refine (wellFormed_requestId ..).2 ?_
    simp [hid]
  case hRun =>
    unfold selectRun
    split
    · rfl
    · split
      · rfl
      · split
        · exact hcommand _
        · rfl
  all_goals rfl

/-- `t` is `s` after a move of its host on the mirror of the one address: its slots and the observations of the host. -/
def MirrorTouched (a : Addr5) (m : MInstance) (s t : State) : Prop :=
  ∃ m' log seen results, SameButSlots m m' ∧
    t = { s with mirror := updateAt a m' s.mirror, log := log, seen := seen, results := results }

theorem MirrorTouched.refl {s : State} (hm : s.mirrorAt a = some m) : MirrorTouched a m s s :=
  ⟨m, s.log, s.seen, s.results, .refl m, by rw [updateAt_same hm]⟩

theorem sendHostCmd_touched {s : State} (hm : s.mirrorAt a = some m) (c : HostCmd) :
    MirrorTouched a m s (sendHostCmd s a c) := by
  rw [sendHostCmd_eq hm c]
  split
  · exact ⟨{ m with hostSlot := some c }, s.log, s.seen, _, ⟨_, _, rfl⟩, rfl⟩
  · exact ⟨m, _, s.seen, _, .refl m, by rw [updateAt_same hm]⟩

theorem readMasterNotification_touched {s : State} (hm : s.mirrorAt a = some m) :
    MirrorTouched a m s (readMasterNotification s a) := by
  rcases ho : m.outSlot with _ | n
  · simpa [readMasterNotification, hm, ho] using .refl hm
  · exact ⟨{ m with outSlot := none }, s.log, _, s.results, ⟨_, _, rfl⟩, readMasterNotification_eq hm ho⟩

/-- All that a move of the master, other than a word or the response timeout, can do: it starts a transaction, or its host
writes slots of the mirror, or it does nothing. -/
theorem JoinedInv.masterMove_cases (h : JoinedInv a j) (hm : j.master.mirrorAt a = some m) {mv : Move}
    (hword : mv.isWord = false) (htimeout : mv ≠ .rspTimeout) :
    (j.master.phase = .mIdle ∧ tryMove j.master mv = startTransaction j.master) ∨
      MirrorTouched a m j.master (tryMove j.master mv) := by
  rcases he : enabled j.master mv with _ | _
  · rw [tryMove_disabled he]
    exact .inr (.refl hm)
  · have hg : masterEnabled j.master mv = true := by simpa [enabled, h.masterRole] using he
    cases mv with
    | rxWord w => simp [Move.isWord] at hword
    | start => exact .inl ⟨by simpa [masterEnabled] using hg, tryMove_enabled he nofun⟩
    | rspTimeout => exact absurd rfl htimeout
    | hostCmd b c =>
      rcases hb : j.master.mirrorAt b with _ | n
      · simp [masterEnabled, State.mirrorIs, hb] at hg
      · obtain rfl := h.mirror_address hb
        exact .inr (tryMove_enabled he nofun ▸ sendHostCmd_touched hm c)
    | hostRead b =>
      rcases hb : j.master.mirrorAt b with _ | n
      · simp [masterEnabled, State.mirrorIs, hb] at hg
      · obtain rfl := h.mirror_address hb
        have hread : tryMove j.master (.hostRead b) = readMasterNotification j.master b := by
          rw [tryMove_enabled he nofun, performMove, hostRead, h.masterRole]
        exact .inr (hread ▸ readMasterNotification_touched hm)
    | _ => simp [masterEnabled] at hg

/-- A point of a transaction in M_IDLE is between transactions. -/
theorem Progress.between_of_idle (h : Progress a j m i) (hphase : j.master.phase = .mIdle) :
    betweenFrames j.peripheral.rx = true ∧ j.peripheral.rxSlot = none ∧ j.peripheral.txSlot = none ∧
      (j.toPeripheral = [] ∨ j.toPeripheral = [0x000]) ∧ j.toMaster = [] ∧ Linked m i := by
  cases h with
  | between phase rx slot tx line back link => exact ⟨rx, slot, tx, line, back, link⟩
  | _ => simp_all

/-- The start step opens a transaction, its request behind the ACK that may still be under way (rule R241). -/
theorem JoinedInv.startMaster (h : JoinedInv a j) {mv : Move} (hphase : j.master.phase = .mIdle)
    (hstart : tryMove j.master mv = startTransaction j.master) : JoinedKeeps a j (j.moveMaster mv) := by
  obtain ⟨m, i, hm, hi, hprogress⟩ := h.progress
  obtain ⟨hrx, hslot, htx, hline, hback, hlink⟩ := hprogress.between_of_idle hphase
  have hmove := hstart.trans (startTransaction_eq h.turnAddress hm)
  have hslots := selectRequest_sameButSlots j.master.cfg a m
  have hout : emittedSince j.master (tryMove j.master mv) = encode a (selectRequest j.master.cfg a m).1 :=
    emittedSince_append (by rw [hmove])
  refine h.keeps (m' := (selectRequest j.master.cfg a m).2.m) (tryMove_effect j.master mv) .nothing hm ?mirror hi
    (.requested (selectRequest j.master.cfg a m).1 ?phase (selectRequest_wellFormed h.masterInv.tables.config a m)
      hrx hslot htx ?line hback (hlink.slots hslots))
    (fun hr => hslots.hs.trans hr) (List.append_nil _).symm noE3_nil
  case mirror =>
    rw [State.mirrorAt] at hm
    simp [hmove, State.mirrorAt, hm]
  case phase => simp [hmove]
  case line =>
    obtain hempty | hack := hline
    · exact .inl (by simp [hout, hempty])
    · exact .inr (by simp [hout, hack])

/-- A move of the master or its host. -/
theorem JoinedInv.moveMaster (h : JoinedInv a j) {mv : Move} (hword : mv.isWord = false) (htimeout : mv ≠ .rspTimeout) :
    JoinedKeeps a j (j.moveMaster mv) := by
  obtain ⟨m, i, hm, hi, hprogress⟩ := h.progress
  obtain ⟨hphase, hstart⟩ | ⟨m', log, seen, results, hslots, hmove⟩ := h.masterMove_cases hm hword htimeout
  · exact h.startMaster hphase hstart
  · have hm' : (tryMove j.master mv).mirrorAt a = some m' := by
      rw [State.mirrorAt] at hm
      simp [hmove, State.mirrorAt, hm]
    have hsame : SameTransaction j (j.moveMaster mv) := by
      constructor <;> simp [hmove, emittedSince]
    exact h.keeps (tryMove_effect j.master mv) .nothing hm hm' hi (hprogress.congr hsame hslots (.refl i))
      (fun hr => hslots.hs.trans hr) (List.append_nil _).symm noE3_nil

/-! ### Moves of the peripheral -/

/-- `t` is `s` after a move of its host or of a session window on the session of the one address: what the link does not read,
the observations of the host, and no E3. -/
def SessionAside (a : Addr5) (i : Instance) (s t : State) : Prop :=
  ∃ i' es seen results, SameLink i i' ∧ NoE3 es ∧
    t = { s with inst := updateAt a i' s.inst, log := s.log ++ es, seen := seen, results := results }

/-- The errors of a host call are E10 (rules R220 to R223). -/
theorem noE3_applyCall (c : InboundCall) (i : Instance) : NoE3 (applyCall c i).2 := by
  cases c with
  | requestSession f => simp only [applyCall, applyRequestSession]; split <;> simp [NoE3]
  | approveVend => simp only [applyCall, applyApproveVend]; split <;> simp [NoE3]
  | denyVend => simp only [applyCall, applyDenyVend]; split <;> simp [NoE3]
  | cancelSession => simp only [applyCall, applyCancelSession]; split_ifs <;> simp [NoE3]

section
variable {s : State} (hi : s.instanceAt a = some i)
include hi

theorem SessionAside.refl : SessionAside a i s s :=
  ⟨i, [], s.seen, s.results, .refl i, noE3_nil, by rw [updateAt_same hi, List.append_nil]⟩

theorem consumeCall_aside : SessionAside a i s (consumeCall s a) := by
  rcases hq : i.inq with _ | c
  · simpa [consumeCall, hi, hq] using SessionAside.refl hi
  · exact ⟨_, _, s.seen, s.results, applyCall_sameLink c i, noE3_applyCall c _, consumeCall_eq hi hq⟩

theorem sendCall_aside (c : InboundCall) : SessionAside a i s (sendCall s a c) := by
  rw [sendCall_eq c hi]
  split
  · exact ⟨{ i with inq := some c }, [], s.seen, _, ⟨rfl, rfl, rfl, rfl, rfl⟩, noE3_nil, by rw [List.append_nil]⟩
  · exact ⟨i, [.e5 a c], s.seen, _, .refl i, by simp [NoE3], by rw [updateAt_same hi]⟩

theorem readNotification_aside : SessionAside a i s (readNotification s a) := by
  rcases ho : i.outSlot with _ | n
  · simpa [readNotification, hi, ho] using SessionAside.refl hi
  · exact ⟨{ i with outSlot := none }, [], _, s.results, ⟨rfl, rfl, rfl, rfl, rfl⟩, noE3_nil,
      by rw [readNotification_eq hi ho, List.append_nil]⟩

theorem idleTimeout_aside : SessionAside a i s (idleTimeout s a) :=
  ⟨{ i with pend := { i.pend with sCan := true }, idleArmed := false }, [], s.seen, s.results, ⟨rfl, rfl, rfl, rfl, rfl⟩,
    noE3_nil, by rw [idleTimeout_eq hi, List.append_nil]⟩

theorem vendTimeout_aside : SessionAside a i s (vendTimeout s a) :=
  ⟨{ i with pend := { i.pend with vDen := true }, vendArmed := false }, [], s.seen, s.results, ⟨rfl, rfl, rfl, rfl, rfl⟩,
    noE3_nil, by rw [vendTimeout_eq hi, List.append_nil]⟩

end

/-- The address of a session's move whose guard holds is the one address. -/
theorem JoinedInv.guard_address (h : JoinedInv a j) {b : Addr5} {p : Instance → Bool}
    (hg : j.peripheral.instanceIs b p = true) : b = a := by
  obtain ⟨i, hi, -⟩ := (instanceIs_iff ..).1 hg
  exact h.session_address hi

/-- A move of the peripheral other than a word, the frame step and the transmit step. -/
theorem JoinedInv.peripheralMove_aside (h : JoinedInv a j) (hi : j.peripheral.instanceAt a = some i) {mv : Move}
    (hword : mv.isWord = false) (hframe : mv ≠ .frame) (htransmit : mv ≠ .transmit) :
    SessionAside a i j.peripheral (tryMove j.peripheral mv) := by
  rcases he : enabled j.peripheral mv with _ | _
  · rw [tryMove_disabled he]
    exact .refl hi
  · have hg : peripheralEnabled j.peripheral mv = true := by simpa [enabled, h.peripheralRole] using he
    rw [tryMove_enabled he hframe]
    cases mv with
    | rxWord w => simp [Move.isWord] at hword
    | transmit => exact absurd rfl htransmit
    | frame => exact absurd rfl hframe
    | consume b =>
      obtain rfl := h.guard_address hg
      exact consumeCall_aside hi
    | hostCall b c =>
      obtain rfl := h.guard_address hg
      exact sendCall_aside hi c
    | hostRead b =>
      obtain rfl := h.guard_address hg
      simp only [performMove, hostRead, h.peripheralRole]
      exact readNotification_aside hi
    | idleTimeout b =>
      obtain rfl := h.guard_address hg
      exact idleTimeout_aside hi
    | vendTimeout b =>
      obtain rfl := h.guard_address hg
      exact vendTimeout_aside hi
    | start | rspTimeout | hostCmd => simp [peripheralEnabled] at hg

/-- Host calls, host reads, consume steps and session timeouts, at any point of a transaction. -/
theorem JoinedInv.movePeripheral_aside (h : JoinedInv a j) {mv : Move}
    (hword : mv.isWord = false) (hframe : mv ≠ .frame) (htransmit : mv ≠ .transmit) :
    JoinedKeeps a j (j.movePeripheral mv) := by
  obtain ⟨m, i, hm, hi, hprogress⟩ := h.progress
  obtain ⟨i', es, seen, results, hlink, hes, hmove⟩ := h.peripheralMove_aside hi hword hframe htransmit
  have hi' : (tryMove j.peripheral mv).instanceAt a = some i' := by
    rw [State.instanceAt] at hi
    simp [hmove, State.instanceAt, hi]
  have hsame : SameTransaction j (j.movePeripheral mv) := by
    constructor <;> simp [hmove, emittedSince]
  exact h.keeps .nothing (tryMove_effect j.peripheral mv) hm hm hi' (hprogress.congr hsame (.refl m) hlink) id
    (by simp [hmove]) hes

/-- A move that is not made. -/
theorem JoinedInv.keeps_refl (h : JoinedInv a j) : JoinedKeeps a j j := by
  obtain ⟨m, i, hm, hi, hprogress⟩ := h.progress
  exact h.keeps .nothing .nothing hm hm hi hprogress id (List.append_nil _).symm noE3_nil

/-- A move of the peripheral whose guard does not hold. -/
theorem Joined.movePeripheral_disabled {mv : Move} (he : enabled j.peripheral mv = false) : j.movePeripheral mv = j := by
  simp [Joined.movePeripheral, tryMove_disabled he]

/-- A frame in the slot at a point of a transaction is the request. -/
theorem Progress.handed_of_slot (h : Progress a j m i) (hslot : j.peripheral.rxSlot ≠ none) :
    ∃ req, j.master.phase = .mAwait a req [] ∧ req.WellFormed ∧ j.peripheral.rx = .idle ∧
      j.peripheral.rxSlot = some (a, requestBytes a req) ∧ j.peripheral.txSlot = none ∧ j.toPeripheral = [] ∧
      j.toMaster = [] ∧ Linked m i := by
  cases h with
  | handed req phase encodes rx slot tx line back link => exact ⟨req, phase, encodes, rx, slot, tx, line, back, link⟩
  | _ => contradiction

/-- The frame step on the bytes of a request (rules R210, R211). -/
theorem tryMove_frame {s : State} {req : Instr} (hr : s.cfg.role = .peripheral) (hwf : req.WellFormed)
    (hslot : s.rxSlot = some (a, requestBytes a req)) (hi : s.instanceAt a = some i) :
    tryMove s .frame = s.answer a req.kind (ruleOf req s.cfg i) := by
  have he : enabled s .frame = true := by simp [enabled, hr, peripheralEnabled, hslot]
  refine tryMove_next ?_
  simp [takeMove, he, frameStep, State.fetch, hslot, decode_requestBytes a hwf, exec_owned req hslot hi]

/-- The frame step takes the request, which the session answers in sequence (rules R210, R214). -/
theorem JoinedInv.frame (h : JoinedInv a j) : JoinedKeeps a j (j.movePeripheral .frame) := by
  obtain ⟨m, i, hm, hi, hprogress⟩ := h.progress
  by_cases hslot : j.peripheral.rxSlot = none
  · rw [Joined.movePeripheral_disabled (by simp [enabled, h.peripheralRole, peripheralEnabled, hslot])]
    exact h.keeps_refl
  obtain ⟨req, hphase, hwf, hrx, hframe, htx, hto, hback, hlink⟩ := hprogress.handed_of_slot hslot
  obtain ⟨-, hsel, -, -⟩ := h.masterInv.phase a req [] hphase
  obtain ⟨hanswers, hes⟩ := (h.paired hm hi hlink).inSequence j.peripheral.cfg a h.lineInv.tables.config (hsel m hm)
  have hmove := tryMove_frame h.peripheralRole hwf hframe hi
  have hi' : (tryMove j.peripheral .frame).instanceAt a =
      some (restartIdle req.kind (ruleOf req j.peripheral.cfg i)) := by
    rw [State.instanceAt] at hi
    simp [hmove, State.instanceAt, hi]
  refine h.keeps .nothing (tryMove_effect j.peripheral .frame) hm hm hi'
    (.answered req (ruleOf req j.peripheral.cfg i).resp hphase ?rx ?slot ?tx hto ?back
      (hanswers.session (restartIdle_sameLink _ _))) id ?log hes
  case rx => simp [hmove, hrx]
  case slot => simp [hmove]
  case tx => simp [hmove]
  case back => simp [hmove, hback, emittedSince]
  case log => simp [hmove, htx, overwriteEvent]

/-- A response in the slot at a point of a transaction is the one the mirror expects. -/
theorem Progress.answered_of_slot (h : Progress a j m i) (htx : j.peripheral.txSlot ≠ none) :
    ∃ req resp, j.master.phase = .mAwait a req [] ∧ j.peripheral.rx = .idle ∧ j.peripheral.rxSlot = none ∧
      j.peripheral.txSlot = some resp ∧ j.toPeripheral = [] ∧ j.toMaster = [] ∧
      Answers j.master.cfg a req m i resp := by
  cases h with
  | answered req resp phase rx slot tx line back answers =>
    exact ⟨req, resp, phase, rx, slot, tx, line, back, answers⟩
  | _ => contradiction

/-- The transmit step puts the whole response on the line (rule R129). -/
theorem JoinedInv.transmit (h : JoinedInv a j) : JoinedKeeps a j (j.movePeripheral .transmit) := by
  obtain ⟨m, i, hm, hi, hprogress⟩ := h.progress
  by_cases hslot : j.peripheral.txSlot = none
  · rw [Joined.movePeripheral_disabled (by simp [enabled, h.peripheralRole, peripheralEnabled, hslot])]
    exact h.keeps_refl
  obtain ⟨req, resp, hphase, hrx, hframe, htx, hto, hback, hanswers⟩ := hprogress.answered_of_slot hslot
  have he : enabled j.peripheral .transmit = true := (enabled_transmit_iff h.peripheralRole).2 ⟨by simp [htx], .inl hrx⟩
  have hmove : tryMove j.peripheral .transmit = _ := (tryMove_enabled he nofun).trans (transmit_some htx)
  have hout : emittedSince j.peripheral (tryMove j.peripheral .transmit) = resp := emittedSince_append (by rw [hmove])
  have hresp : resp ≠ [] := by
    obtain ⟨c, hresp, -⟩ := hanswers
    exact IsResponse.ne_nil hresp
  refine h.keeps (i' := i) .nothing (tryMove_effect j.peripheral .transmit) hm hm ?session
    (.returning req [] hphase ?rx ?slot ?tx hto ?back ?answers) id ?log noE3_nil
  case session => exact (congrArg (State.instanceAt · a) hmove).trans hi
  case rx => simp [hmove, hrx]
  case slot => simp [hmove, hframe]
  case tx => simp [hmove]
  case back => simpa [hout, hback] using hresp
  case answers => simpa [hout, hback] using hanswers
  case log => simp [hmove]

/-- A move of the peripheral, its host or its environment. -/
theorem JoinedInv.movePeripheral (h : JoinedInv a j) {mv : Move} (hword : mv.isWord = false) :
    JoinedKeeps a j (j.movePeripheral mv) := by
  by_cases hframe : mv = .frame
  · subst hframe; exact h.frame
  by_cases htransmit : mv = .transmit
  · subst htransmit; exact h.transmit
  · exact h.movePeripheral_aside hword hframe htransmit

/-! ### Every step -/

/-- Every step of the joined system but the response timeout keeps the joined invariant (rule R274). -/
theorem JoinedInv.step (h : JoinedInv a j) {mv : JoinedMove} (htimeout : mv ≠ .master .rspTimeout) :
    JoinedKeeps a j (j.step mv) := by
  obtain hs | ⟨w, ws, -, hline, hs⟩ | ⟨w, ws, -, hline, hs⟩ | ⟨x, rfl, hword, hs⟩ | ⟨x, rfl, hword, hs⟩ :=
    j.step_cases mv <;> rw [hs]
  · exact h.keeps_refl
  · exact h.arriveAtPeripheral hline
  · exact h.arriveAtMaster hline
  · exact h.moveMaster hword fun hx => htimeout (hx ▸ rfl)
  · exact h.movePeripheral hword

/-- Between transactions, with nothing on the line, the joined invariant holds. -/
theorem JoinedOk.joinedInv {m p : State} (h : JoinedOk a m p) : JoinedInv a ⟨m, p, [], []⟩ := by
  obtain ⟨hrx, hslot, htx⟩ := h.quiet
  obtain ⟨mi, pi, hm, hp, hlink⟩ := h.linked
  exact { h with progress := ⟨mi, pi, hm, hp, .between h.idle hrx hslot htx (.inl rfl) rfl hlink⟩ }

/-- In M_IDLE the blocks are between transactions. -/
theorem JoinedInv.joinedOk (h : JoinedInv a j) (hphase : j.master.phase = .mIdle) : JoinedOk a j.master j.peripheral := by
  obtain ⟨m, i, hm, hi, hprogress⟩ := h.progress
  obtain ⟨hrx, hslot, htx, -, -, hlink⟩ := hprogress.between_of_idle hphase
  exact { h with idle := hphase, quiet := ⟨hrx, hslot, htx⟩, linked := ⟨m, i, hm, hi, hlink⟩ }

/-- Between transactions the mirror's state is the session's. -/
theorem JoinedOk.state {s p : State} (h : JoinedOk a s p) (hm : s.mirrorAt a = some m) (hi : p.instanceAt a = some i) :
    m.mst = i.st := by
  obtain ⟨n, k, hn, hk, hlink⟩ := h.linked
  obtain rfl : n = m := Option.some.inj (hn.symm.trans hm)
  obtain rfl : k = i := Option.some.inj (hk.symm.trans hi)
  exact hlink.state

end

/-- Settles O60: a step is an arrival or a move of one block, and each leads from one point of a transaction to another. -/
theorem joinedStepsKeepTheMirror : Obligations.JoinedStepsKeepTheMirror := by
  refine ⟨fun a m p h => h.joinedInv, fun a j h => ⟨fun hphase => ?between, fun mv htimeout => ?step⟩⟩
  case between =>
    have hok := h.joinedOk hphase
    exact ⟨hok, fun _ _ hm hi => hok.state hm hi⟩
  case step =>
    have hkeeps := h.step htimeout
    exact ⟨hkeeps.inv, hkeeps.noE3, hkeeps.running⟩

end Sys2Proof.Machine
end

section
/-! One transaction (rule R274): `transact` is a run of the joined system, so it keeps what the steps keep, and it ends with the
transaction closed because the peripheral answers and the master hears the answer to its end. -/

namespace Sys2Proof.Machine

/-! ### Runs -/

theorem Joined.run_append (j : Joined) (xs ys : List JoinedMove) : j.run (xs ++ ys) = (j.run xs).run ys :=
  List.foldl_append

section
variable {a : Addr5} {j k l : Joined}

theorem JoinedKeeps.trans (h : JoinedKeeps a j k) (h' : JoinedKeeps a k l) : JoinedKeeps a j l where
  inv := h'.inv
  noE3 := fun kind st hmem => h.noE3 kind st (h'.noE3 kind st hmem)
  running := fun m m' hm hm' hrun => by
    obtain ⟨n, -, hn, -⟩ := h.inv.progress
    exact h'.running n m' hn hm' (h.running m n hm hn hrun)

/-- Every run of the joined system without a response timeout keeps the joined invariant (rule R274). -/
theorem JoinedInv.run (h : JoinedInv a j) {mvs : List JoinedMove} (hmvs : ∀ mv ∈ mvs, mv ≠ .master .rspTimeout) :
    JoinedKeeps a j (j.run mvs) := by
  induction mvs generalizing j with
  | nil => exact h.keeps_refl
  | cons mv mvs ih =>
    obtain ⟨hmv, hrest⟩ := List.forall_mem_cons.1 hmvs
    have hstep := h.step hmv
    exact hstep.trans (ih hstep.inv hrest)

end

/-! ### Words heard -/

/-- What is emitted in two stretches is what is emitted in the one and then in the other. -/
theorem emittedSince_trans {s t u : State} (h : s.out <+: t.out) (h' : t.out <+: u.out) :
    emittedSince s t ++ emittedSince t u = emittedSince s u := by
  obtain ⟨x, hx⟩ := h
  obtain ⟨y, hy⟩ := h'
  rw [emittedSince_append hx.symm, emittedSince_append hy.symm,
    emittedSince_append (ws := x ++ y) (by rw [← hy, ← hx, List.append_assoc])]

theorem tryMove_out (s : State) (mv : Move) : s.out <+: (tryMove s mv).out := (tryMove_effect s mv).extends.out

theorem hear_out (s : State) (ws : List Word9) : s.out <+: (hear s ws).out := by
  induction ws generalizing s with
  | nil => exact List.prefix_rfl
  | cons w ws ih =>
    have hfirst : s.out <+: (receive s w).out := tryMove_rxWord s w ▸ tryMove_out s (.rxWord w)
    exact hfirst.trans (ih (receive s w))

theorem hear_cons (s : State) (w : Word9) (ws : List Word9) : hear s (w :: ws) = hear (receive s w) ws := rfl

/-- What is emitted while a list of words is heard is emitted at the first word and while the others are heard. -/
theorem emittedSince_hear_cons (s : State) (w : Word9) (ws : List Word9) :
    emittedSince s (receive s w) ++ emittedSince (receive s w) (hear (receive s w) ws) =
      emittedSince s (hear s (w :: ws)) :=
  emittedSince_trans (tryMove_rxWord s w ▸ tryMove_out s (.rxWord w)) (hear_out (receive s w) ws)

/-- The words under way to the peripheral arrive one after the other. -/
theorem run_arriveAtPeripheral (m p : State) (ws back : List Word9) :
    Joined.run ⟨m, p, ws, back⟩ (List.replicate ws.length .arriveAtPeripheral) =
      ⟨m, hear p ws, [], back ++ emittedSince p (hear p ws)⟩ := by
  induction ws generalizing p back with
  | nil => simp [Joined.run, hear]
  | cons w ws ih =>
    calc Joined.run ⟨m, p, w :: ws, back⟩ (List.replicate (w :: ws).length .arriveAtPeripheral)
      _ = Joined.run ⟨m, receive p w, ws, back ++ emittedSince p (receive p w)⟩
            (List.replicate ws.length .arriveAtPeripheral) := by rw [← tryMove_rxWord]; rfl
      _ = _ := by rw [ih, List.append_assoc, emittedSince_hear_cons, hear_cons]

/-- The words under way to the master arrive one after the other. -/
theorem run_arriveAtMaster (m p : State) (acks ws : List Word9) :
    Joined.run ⟨m, p, acks, ws⟩ (List.replicate ws.length .arriveAtMaster) =
      ⟨hear m ws, p, acks ++ emittedSince m (hear m ws), []⟩ := by
  induction ws generalizing m acks with
  | nil => simp [Joined.run, hear]
  | cons w ws ih =>
    calc Joined.run ⟨m, p, acks, w :: ws⟩ (List.replicate (w :: ws).length .arriveAtMaster)
      _ = Joined.run ⟨receive m w, p, acks ++ emittedSince m (receive m w), ws⟩
            (List.replicate ws.length .arriveAtMaster) := by rw [← tryMove_rxWord]; rfl
      _ = _ := by rw [ih, List.append_assoc, emittedSince_hear_cons, hear_cons]

/-! ### A transaction as a run -/

/-- The peripheral after it has heard the request of `m`. -/
def requested (m p : State) : State := hear p (emittedSince m (tryMove m .start))

/-- The peripheral after it has executed the request of `m` and transmitted its response. -/
def responded (m p : State) : State := tryMove (tryMove (requested m p) .frame) .transmit

/-- The request is sent and heard. -/
def requestMoves (m : State) : List JoinedMove :=
  .master .start :: List.replicate (emittedSince m (tryMove m .start)).length .arriveAtPeripheral

/-- The response is heard, and then the master's ACK to it. -/
def responseMoves (m : State) (resp : List Word9) : List JoinedMove :=
  List.replicate resp.length .arriveAtMaster ++
    List.replicate (emittedSince m (hear m resp)).length .arriveAtPeripheral

theorem run_requestMoves (m p : State) :
    Joined.run ⟨m, p, [], []⟩ (requestMoves m) =
      ⟨tryMove m .start, requested m p, [], emittedSince p (requested m p)⟩ :=
  run_arriveAtPeripheral (tryMove m .start) p (emittedSince m (tryMove m .start)) []

/-- The request is executed and answered. -/
theorem run_respond (m p : State) :
    Joined.run ⟨m, p, [], []⟩ (requestMoves m ++ [.peripheral .frame, .peripheral .transmit]) =
      ⟨tryMove m .start, responded m p, [], emittedSince p (responded m p)⟩ := by
  have hheard : p.out <+: (requested m p).out := hear_out ..
  have hframe := tryMove_out (requested m p) .frame
  have htransmit := tryMove_out (tryMove (requested m p) .frame) .transmit
  rw [Joined.run_append, run_requestMoves, responded, ← emittedSince_trans (hheard.trans hframe) htransmit,
    ← emittedSince_trans hheard hframe]
  rfl

theorem run_responseMoves (m p : State) (resp : List Word9) :
    ∃ back, Joined.run ⟨m, p, [], resp⟩ (responseMoves m resp) =
      ⟨hear m resp, hear p (emittedSince m (hear m resp)), [], back⟩ := by
  rw [responseMoves, Joined.run_append, run_arriveAtMaster]
  exact ⟨_, run_arriveAtPeripheral ..⟩

/-! ### The transaction closes -/

/-- Completing a transaction closes it (rule R243). -/
theorem complete_phase (s : State) (a : Addr5) (req : Instr) (c : ResponseClass) : (complete s a req c).phase = .mIdle := by
  obtain ⟨-, hs⟩ | ⟨m, -, hs⟩ := complete_cases s a req c <;> rw [hs]

/-- A master that hears a response to its end closes the transaction (rules R130, R243). -/
theorem hear_response {s : State} {a : Addr5} {req : Instr} {buf ws : List Word9} {c : ResponseClass}
    (hr : s.cfg.role = .master) (hphase : s.phase = .mAwait a req buf) (hroom : 31 ≤ s.cfg.maxRspLen)
    (hresp : IsResponse (buf ++ ws) c) (hne : ws ≠ []) : (hear s ws).phase = .mIdle := by
  induction ws generalizing s buf with
  | nil => exact absurd rfl hne
  | cons w ws ih =>
    have hfirst : hear s (w :: ws) = hear (receiveResponse s w) ws := by simp [hear, receive, hr]
    rw [hfirst]
    rcases ws with _ | ⟨v, vs⟩
    · rw [receiveResponse_last hphase hresp.mode_last]
      exact complete_phase ..
    · obtain ⟨hclear, hlen⟩ := hresp.mode_front
      have hmore := receiveResponse_more hphase hclear (by omega)
      rw [hmore]
      exact ih (buf := buf ++ [w]) hr rfl hroom (by simpa using hresp) (by simp)

section
variable {a : Addr5} {j : Joined} {m : MInstance} {i : Instance}

/-- Where a transaction is open, no request is under way and both slots of the peripheral are empty, the response is under way. -/
theorem Progress.back_ne_nil (h : Progress a j m i) (hphase : j.master.phase ≠ .mIdle) (hline : j.toPeripheral = [])
    (hslot : j.peripheral.rxSlot = none) (htx : j.peripheral.txSlot = none) : j.toMaster ≠ [] := by
  cases h with
  | between phase => exact absurd phase hphase
  | requested req phase encodes rx slot tx line =>
    have hne : encode a req ≠ [] := List.ne_nil_of_length_pos (by simp [encode_length])
    simp [hline, hne] at line
  | arriving req n phase encodes pos notAll rx slot tx line =>
    simp only [hline, wordsAfter, List.nil_eq, List.drop_eq_nil_iff] at line
    omega
  | handed req phase encodes rx slot => simp [hslot] at slot
  | answered req resp phase rx slot tx => simp [htx] at tx
  | returning req buf phase rx slot tx line back => exact back

/-- The frame step empties the hand-off slot (rule R210). -/
theorem JoinedInv.frame_rxSlot (h : JoinedInv a j) : (tryMove j.peripheral .frame).rxSlot = none := by
  obtain ⟨m, i, -, hi, hprogress⟩ := h.progress
  by_cases hslot : j.peripheral.rxSlot = none
  · rw [tryMove_disabled (by simp [enabled, h.peripheralRole, peripheralEnabled, hslot]), hslot]
  · obtain ⟨req, -, hwf, -, hframe, -⟩ := hprogress.handed_of_slot hslot
    rw [tryMove_frame h.peripheralRole hwf hframe hi]
    rfl

/-- The transmit step empties the response slot and leaves the hand-off slot (rule R129). -/
theorem JoinedInv.transmit_slots (h : JoinedInv a j) :
    (tryMove j.peripheral .transmit).txSlot = none ∧
      (tryMove j.peripheral .transmit).rxSlot = j.peripheral.rxSlot := by
  obtain ⟨m, i, -, -, hprogress⟩ := h.progress
  by_cases htx : j.peripheral.txSlot = none
  · rw [tryMove_disabled (by simp [enabled, h.peripheralRole, peripheralEnabled, htx])]
    exact ⟨htx, rfl⟩
  · obtain ⟨req, resp, -, hrx, -, hresp, -⟩ := hprogress.answered_of_slot htx
    have he : enabled j.peripheral .transmit = true :=
      (enabled_transmit_iff h.peripheralRole).2 ⟨by simp [hresp], .inl hrx⟩
    rw [tryMove_enabled he nofun, performMove, transmit_some hresp]
    exact ⟨rfl, rfl⟩

end

/-! ### The transaction of two joined blocks -/

section
variable {a : Addr5} {m p : State}

theorem requestMoves_ne_timeout (m : State) : ∀ mv ∈ requestMoves m, mv ≠ .master .rspTimeout := by
  simp [requestMoves, List.mem_replicate]

theorem responseMoves_ne_timeout (m : State) (resp : List Word9) :
    ∀ mv ∈ responseMoves m resp, mv ≠ .master .rspTimeout := by
  simp only [responseMoves, List.mem_append, List.mem_replicate]
  rintro mv (⟨-, rfl⟩ | ⟨-, rfl⟩) <;> simp

/-- After the request is executed and the response transmitted both slots of the peripheral are empty. -/
theorem JoinedOk.responded_slots (h : JoinedOk a m p) :
    (responded m p).rxSlot = none ∧ (responded m p).txSlot = none := by
  have hheard := (h.joinedInv.run (requestMoves_ne_timeout m)).inv
  rw [run_requestMoves] at hheard
  have hframe := hheard.frame.inv
  obtain ⟨htx, hslot⟩ := hframe.transmit_slots
  exact ⟨hslot.trans hheard.frame_rxSlot, htx⟩

/-- The start step opens a transaction (rule R241). -/
theorem JoinedOk.start_phase (h : JoinedOk a m p) : (tryMove m .start).phase ≠ .mIdle := by
  obtain ⟨mi, pi, hm, -⟩ := h.linked
  have henabled : enabled m .start = true := by simp [enabled, h.masterRole, masterEnabled, h.idle]
  rw [tryMove_enabled henabled nofun, performMove, startTransaction_eq h.joinedInv.turnAddress hm]
  simp

theorem respondMoves_ne_timeout (m : State) :
    ∀ mv ∈ requestMoves m ++ [.peripheral .frame, .peripheral .transmit], mv ≠ .master .rspTimeout :=
  List.forall_mem_append.2 ⟨requestMoves_ne_timeout m, by simp⟩

/-- A transaction keeps what a run of the joined system keeps. -/
theorem JoinedOk.transact_keeps (h : JoinedOk a m p) :
    ∃ back, JoinedKeeps a ⟨m, p, [], []⟩ ⟨(transact m p).1, (transact m p).2, [], back⟩ := by
  obtain ⟨back, hresponse⟩ := run_responseMoves (tryMove m .start) (responded m p) (emittedSince p (responded m p))
  have hkeeps := h.joinedInv.run (List.forall_mem_append.2
    ⟨respondMoves_ne_timeout m, responseMoves_ne_timeout (tryMove m .start) (emittedSince p (responded m p))⟩)
  rw [Joined.run_append, run_respond, hresponse] at hkeeps
  exact ⟨back, hkeeps⟩

/-- A transaction ends in M_IDLE: the whole response is under way when the master listens (rules R130, R243). -/
theorem JoinedOk.transact_phase (h : JoinedOk a m p) : (transact m p).1.phase = .mIdle := by
  have hanswered := (h.joinedInv.run (respondMoves_ne_timeout m)).inv
  rw [run_respond] at hanswered
  obtain ⟨mi, pi, -, -, hprogress⟩ := hanswered.progress
  obtain ⟨hslot, htx⟩ := h.responded_slots
  have hback := hprogress.back_ne_nil h.start_phase rfl hslot htx
  obtain ⟨req, buf, hphase, -, -, -, -, c, hresp, -⟩ := hprogress.returning_of_back hback
  exact hear_response hanswered.masterRole hphase hanswered.room hresp hback

end

/-- Settles O59: a transaction is a run of the joined system, and it ends with none open. -/
theorem transactionsKeepTheMirror : Obligations.TransactionsKeepTheMirror := by
  intro a m p h after
  obtain ⟨back, hkeeps⟩ := h.transact_keeps
  have hok : JoinedOk a after.1 after.2 := hkeeps.inv.joinedOk h.transact_phase
  exact ⟨hok, fun _ _ hm hi => hok.state hm hi, hkeeps.noE3, hkeeps.running⟩

end Sys2Proof.Machine
end
